-- ==== Sys2Proof/Word.lean ====
section
/-! DEFINITION. The two word types of the core: a command or response word and a storage cell. -/

namespace Sys2Proof

/-- A word on the command or the response port (30_encoding.md R80). -/
abbrev Word := BitVec 32

/-- One cell of an array register or of a table: one field element of the largest field
(20_memory.md R60, 00_scope.md R8). -/
abbrev Cell := BitVec 12

end Sys2Proof
end

