-- ==== Sys2Proof/Syntax.lean ====
section
/-! DEFINITION. The commands of the core, one constructor per row of the opcode table, with the
selectors and register numbers as constructors, so that the machine sees no raw encoding. -/

namespace Sys2Proof

/-- `MODE` (10_state.md R36): BCH is 0, RS is 1. -/
inductive Mode where
  | bch
  | rs
  deriving DecidableEq, Repr

/-- The ten array registers, in the order of their selector numbers 0 to 9 (10_state.md R30, 30_encoding.md R96). -/
inductive ArrSel where
  | cw | g | syn | lam | bp | omg | qt | rm | epos | eval
  deriving DecidableEq, Repr

/-- The registers `RDCSR` reads, in the order of their numbers 0 to 12 (10_state.md R42). -/
inductive Csr where
  | m | prim | n | t | mode | status | l | pos | bd | nroots | ecnt | lasterr | esticky
  deriving DecidableEq, Repr

/-- The 37 commands (30_encoding.md R88 to R92), operands as the format of each extracts them (R85). -/
inductive Instr where
  | nop
  | reset
  | rdcsr (c : Csr)
  | fsetm (m : BitVec 24)
  | fsetp (p : BitVec 13)
  | finit
  | fadd (a b : Cell)
  | fmul (a b : Cell)
  | fdiv (a b : Cell)
  | finv (a : Cell)
  | fpow (a : Cell) (e : BitVec 12)
  | fisprim (a : Cell)
  | fexp (i : BitVec 12)
  | flog (a : Cell)
  | pwr (sel : ArrSel) (i : BitVec 12) (c : Cell)
  | prd (sel : ArrSel) (i : BitVec 12)
  | pclr (pd : ArrSel)
  | pmov (pd pa : ArrSel)
  | pdeg (pa : ArrSel)
  | pisz (pa : ArrSel)
  | padd (pd pa pb : ArrSel)
  | pmul (pd pa pb : ArrSel)
  | pdivmod (pa pb : ArrSel)
  | peval (pa : ArrSel) (x : Cell)
  | csetn (n : BitVec 12)
  | csett (t : BitVec 12)
  | csetmode (mode : Mode)
  | geng (rho : BitVec 12)
  | genb (t : BitVec 12)
  | enc
  | synd
  | bma
  | chien
  | omega
  | forney
  | correct
  | decode
  deriving DecidableEq, Repr

/-- The mnemonic of the command in the opcode table (30_encoding.md R88 to R92). -/
def Instr.mnemonic : Instr → String
  | .nop => "NOP"
  | .reset => "RESET"
  | .rdcsr _ => "RDCSR"
  | .fsetm _ => "FSETM"
  | .fsetp _ => "FSETP"
  | .finit => "FINIT"
  | .fadd _ _ => "FADD"
  | .fmul _ _ => "FMUL"
  | .fdiv _ _ => "FDIV"
  | .finv _ => "FINV"
  | .fpow _ _ => "FPOW"
  | .fisprim _ => "FISPRIM"
  | .fexp _ => "FEXP"
  | .flog _ => "FLOG"
  | .pwr _ _ _ => "PWR"
  | .prd _ _ => "PRD"
  | .pclr _ => "PCLR"
  | .pmov _ _ => "PMOV"
  | .pdeg _ => "PDEG"
  | .pisz _ => "PISZ"
  | .padd _ _ _ => "PADD"
  | .pmul _ _ _ => "PMUL"
  | .pdivmod _ _ => "PDIVMOD"
  | .peval _ _ => "PEVAL"
  | .csetn _ => "CSETN"
  | .csett _ => "CSETT"
  | .csetmode _ => "CSETMODE"
  | .geng _ => "GENG"
  | .genb _ => "GENB"
  | .enc => "ENC"
  | .synd => "SYND"
  | .bma => "BMA"
  | .chien => "CHIEN"
  | .omega => "OMEGA"
  | .forney => "FORNEY"
  | .correct => "CORRECT"
  | .decode => "DECODE"

end Sys2Proof
end

