-- ==== Sys2Proof/WellFormed.lean ====
section
/-! DEFINITION. Which command words are well formed: the opcode table as masks and patterns with its constraints
(30_encoding.md R88 to R92, and R93's second formulation).
A term of `Instr` cannot be ill formed, since its selectors, register numbers and field widths are its types
(assumption 19), so the check is a check of words. Decode.lean decodes by fields, without this table. -/

namespace Sys2Proof

/-- One row of the opcode table. `selLows` are the low bit numbers of the 4-bit selector fields, each of which must be
at most 9 (R96), and `csr` says that bits 23 to 12 must be at most 12 (R88). -/
structure OpRow where
  mnemonic : String
  pattern  : Word
  mask     : Word
  selLows  : List Nat
  csr      : Bool
  deriving DecidableEq, Repr

/-- The word has the row's fixed bits and meets its constraints (R93: `w and mask = match`). -/
def OpRow.accepts (r : OpRow) (w : Word) : Bool :=
  w &&& r.mask == r.pattern
    && r.selLows.all (fun lo => (w.extractLsb' lo 4).toNat ≤ 9)
    && (!r.csr || (w.extractLsb' 12 12).toNat ≤ 12)

/-- Group 0 (R88). -/
def opRowsSys : List OpRow :=
  [ ⟨"NOP", 0x00000000, 0xFFFFFFFF, [], false⟩,
    ⟨"RESET", 0x01000000, 0xFFFFFFFF, [], false⟩,
    ⟨"RDCSR", 0x02000000, 0xFF000FFF, [], true⟩ ]

/-- Group 1 (R89). -/
def opRowsFld : List OpRow :=
  [ ⟨"FSETM", 0x10000000, 0xFF000000, [], false⟩,
    ⟨"FSETP", 0x11000000, 0xFFFFE000, [], false⟩,
    ⟨"FINIT", 0x12000000, 0xFFFFFFFF, [], false⟩,
    ⟨"FADD", 0x13000000, 0xFF000000, [], false⟩,
    ⟨"FMUL", 0x14000000, 0xFF000000, [], false⟩,
    ⟨"FDIV", 0x15000000, 0xFF000000, [], false⟩,
    ⟨"FINV", 0x16000000, 0xFF000FFF, [], false⟩,
    ⟨"FPOW", 0x17000000, 0xFF000000, [], false⟩,
    ⟨"FISPRIM", 0x18000000, 0xFF000FFF, [], false⟩,
    ⟨"FEXP", 0x19000000, 0xFF000FFF, [], false⟩,
    ⟨"FLOG", 0x1A000000, 0xFF000FFF, [], false⟩ ]

/-- Groups 2 and 3 (R90). -/
def opRowsCell : List OpRow :=
  [ ⟨"PWR", 0x20000000, 0xF0000000, [24], false⟩,
    ⟨"PRD", 0x30000000, 0xF0000FFF, [24], false⟩ ]

/-- Group 4 (R91). -/
def opRowsPoly : List OpRow :=
  [ ⟨"PCLR", 0x40000000, 0xFF0FFFFF, [20], false⟩,
    ⟨"PMOV", 0x41000000, 0xFF00FFFF, [20, 16], false⟩,
    ⟨"PDEG", 0x42000000, 0xFFF0FFFF, [16], false⟩,
    ⟨"PISZ", 0x43000000, 0xFFF0FFFF, [16], false⟩,
    ⟨"PADD", 0x44000000, 0xFF000FFF, [20, 16, 12], false⟩,
    ⟨"PMUL", 0x45000000, 0xFF000FFF, [20, 16, 12], false⟩,
    ⟨"PDIVMOD", 0x46000000, 0xFFF00FFF, [16, 12], false⟩,
    ⟨"PEVAL", 0x47000000, 0xFFF0F000, [16], false⟩ ]

/-- Group 5 (R92). -/
def opRowsCodec : List OpRow :=
  [ ⟨"CSETN", 0x50000000, 0xFFFFF000, [], false⟩,
    ⟨"CSETT", 0x51000000, 0xFFFFF000, [], false⟩,
    ⟨"CSETMODE", 0x52000000, 0xFFFFFFFE, [], false⟩,
    ⟨"GENG", 0x53000000, 0xFF000FFF, [], false⟩,
    ⟨"GENB", 0x54000000, 0xFF000FFF, [], false⟩,
    ⟨"ENC", 0x55000000, 0xFFFFFFFF, [], false⟩,
    ⟨"SYND", 0x56000000, 0xFFFFFFFF, [], false⟩,
    ⟨"BMA", 0x57000000, 0xFFFFFFFF, [], false⟩,
    ⟨"CHIEN", 0x58000000, 0xFFFFFFFF, [], false⟩,
    ⟨"OMEGA", 0x59000000, 0xFFFFFFFF, [], false⟩,
    ⟨"FORNEY", 0x5A000000, 0xFFFFFFFF, [], false⟩,
    ⟨"CORRECT", 0x5B000000, 0xFFFFFFFF, [], false⟩,
    ⟨"DECODE", 0x5C000000, 0xFFFFFFFF, [], false⟩ ]

/-- The opcode table: 37 rows. -/
def opRows : List OpRow := opRowsSys ++ opRowsFld ++ opRowsCell ++ opRowsPoly ++ opRowsCodec

/-- A word is well formed exactly when some row of the table accepts it; every other word is illegal (R93, R94, R97). -/
def wellFormedWord (w : Word) : Bool := opRows.any (fun r => r.accepts w)

end Sys2Proof
end

