-- ==== Sys2Proof/Decode.lean ====
section
/-! DEFINITION. Command words to commands and back (30_encoding.md R83, R85, R88 to R97).
Decoding is total: every word is a command or is illegal for a named reason (R93). -/

namespace Sys2Proof

/-- Why a word is illegal (R97). All of them raise the one fault kind `IllegalCommand` (R247). -/
inductive Illegal where
  /-- `grp ≥ 6` -/
  | unassignedGroup
  /-- no command of the group has this `fn` -/
  | unassignedFunction
  /-- a selector above 9 in a used selector field -/
  | selectorAboveNine
  /-- `RDCSR` of a number above 12 -/
  | registerAboveTwelve
  /-- a bit the format does not use is 1 -/
  | reservedBitSet
  deriving DecidableEq, Repr

/-- The fields of a command word (R83). -/
structure Fields where
  grp : BitVec 4
  fn  : BitVec 4
  a   : BitVec 12
  b   : BitVec 12
  deriving DecidableEq, Repr

/-- Bits 31:28, 27:24, 23:12 and 11:0 (R83). -/
def Fields.ofWord (w : Word) : Fields :=
  ⟨w.extractLsb' 28 4, w.extractLsb' 24 4, w.extractLsb' 12 12, w.extractLsb' 0 12⟩

/-- The word with the given fields (R83). -/
def Fields.toWord (f : Fields) : Word := f.grp ++ f.fn ++ f.a ++ f.b

/-- `imm = a · 4096 + b`, bits 23:0 (R83). -/
def Fields.imm (f : Fields) : BitVec 24 := f.a ++ f.b

/-- `pd = a[11:8]` (R85). -/
def Fields.pd (f : Fields) : BitVec 4 := f.a.extractLsb' 8 4

/-- `pa = a[7:4]` (R85). -/
def Fields.pa (f : Fields) : BitVec 4 := f.a.extractLsb' 4 4

/-- `pb = a[3:0]` (R85). -/
def Fields.pb (f : Fields) : BitVec 4 := f.a.extractLsb' 0 4

/-- The field `a` of a format whose selector nibbles are `pd`, `pa`, `pb` (R85). -/
def selectorField (pd pa pb : BitVec 4) : BitVec 12 := pd ++ pa ++ pb

/-- The number of an array register (10_state.md R30, 30_encoding.md R96). -/
def ArrSel.number : ArrSel → BitVec 4
  | .cw => 0
  | .g => 1
  | .syn => 2
  | .lam => 3
  | .bp => 4
  | .omg => 5
  | .qt => 6
  | .rm => 7
  | .epos => 8
  | .eval => 9

/-- The array register with a number; 10 to 15 name nothing (R96). -/
def ArrSel.ofNumber (k : BitVec 4) : Option ArrSel :=
  match k.toNat with
  | 0 => some .cw
  | 1 => some .g
  | 2 => some .syn
  | 3 => some .lam
  | 4 => some .bp
  | 5 => some .omg
  | 6 => some .qt
  | 7 => some .rm
  | 8 => some .epos
  | 9 => some .eval
  | _ => none

/-- The number of a register `RDCSR` reads (10_state.md R42). -/
def Csr.number : Csr → BitVec 12
  | .m => 0
  | .prim => 1
  | .n => 2
  | .t => 3
  | .mode => 4
  | .status => 5
  | .l => 6
  | .pos => 7
  | .bd => 8
  | .nroots => 9
  | .ecnt => 10
  | .lasterr => 11
  | .esticky => 12

/-- The register with a number; 13 to 4095 name nothing (R42). -/
def Csr.ofNumber (k : BitVec 12) : Option Csr :=
  match k.toNat with
  | 0 => some .m
  | 1 => some .prim
  | 2 => some .n
  | 3 => some .t
  | 4 => some .mode
  | 5 => some .status
  | 6 => some .l
  | 7 => some .pos
  | 8 => some .bd
  | 9 => some .nroots
  | 10 => some .ecnt
  | 11 => some .lasterr
  | 12 => some .esticky
  | _ => none

/-- The bit of a mode: 0 is BCH, 1 is RS (10_state.md R36, 43_generator_encoder.md R183). -/
def Mode.bit : Mode → BitVec 1
  | .bch => 0
  | .rs => 1

/-- The mode with a bit. -/
def Mode.ofBit (b : BitVec 1) : Mode := if b = 0 then .bch else .rs

/-- What decoding answers. -/
abbrev Decoded := Except Illegal Instr

/-- The instruction, if the format's unused bits are 0 (R94). -/
def needZero (unusedAreZero : Bool) (i : Decoded) : Decoded :=
  if unusedAreZero then i else .error .reservedBitSet

/-- A used selector field: 0 to 9, else the word is illegal (R96). -/
def withSel (k : BitVec 4) (f : ArrSel → Decoded) : Decoded :=
  match ArrSel.ofNumber k with
  | some sel => f sel
  | none => .error .selectorAboveNine

/-- A register number of `RDCSR`: 0 to 12, else the word is illegal (R88). -/
def withCsr (k : BitVec 12) (f : Csr → Decoded) : Decoded :=
  match Csr.ofNumber k with
  | some c => f c
  | none => .error .registerAboveTwelve

/-- Format Z: `imm = 0` (R85). -/
def formatZ (f : Fields) (i : Instr) : Decoded := needZero (f.imm == 0) (.ok i)

/-- Format A: `a` is the operand, `b = 0` (R85). -/
def formatA (f : Fields) (mk : BitVec 12 → Instr) : Decoded := needZero (f.b == 0) (.ok (mk f.a))

/-- Format AB: `a` and `b` are operands (R85). -/
def formatAB (f : Fields) (mk : BitVec 12 → BitVec 12 → Instr) : Decoded := .ok (mk f.a f.b)

/-- Format I12: `imm[11:0]`, `imm[23:12] = 0` (R85). -/
def formatI12 (f : Fields) (mk : BitVec 12 → Instr) : Decoded := needZero (f.a == 0) (.ok (mk f.b))

/-- Format P3: `pd`, `pa`, `pb`, `b = 0` (R85). -/
def formatP3 (f : Fields) (mk : ArrSel → ArrSel → ArrSel → Instr) : Decoded :=
  needZero (f.b == 0) <| withSel f.pd fun pd => withSel f.pa fun pa => withSel f.pb fun pb => .ok (mk pd pa pb)

/-- Format P1S: `pa`, every other nibble of `a` 0 and `b = 0` (R85). -/
def formatP1S (f : Fields) (mk : ArrSel → Instr) : Decoded :=
  needZero (f.pd == 0 && f.pb == 0 && f.b == 0) <| withSel f.pa fun pa => .ok (mk pa)

/-- Group 0, SYS (R88). -/
def decodeSys (f : Fields) : Decoded :=
  match f.fn.toNat with
  | 0 => formatZ f .nop
  | 1 => formatZ f .reset
  | 2 => needZero (f.b == 0) <| withCsr f.a fun c => .ok (.rdcsr c)
  | _ => .error .unassignedFunction

/-- Group 1, FLD (R89). -/
def decodeFld (f : Fields) : Decoded :=
  match f.fn.toNat with
  | 0 => .ok (.fsetm f.imm)
  | 1 => needZero (f.imm.extractLsb' 13 11 == 0) (.ok (.fsetp (f.imm.extractLsb' 0 13)))
  | 2 => formatZ f .finit
  | 3 => formatAB f .fadd
  | 4 => formatAB f .fmul
  | 5 => formatAB f .fdiv
  | 6 => formatA f .finv
  | 7 => formatAB f .fpow
  | 8 => formatA f .fisprim
  | 9 => formatA f .fexp
  | 10 => formatA f .flog
  | _ => .error .unassignedFunction

/-- Group 2, PWR: `fn` is the selector (R90). -/
def decodePwr (f : Fields) : Decoded := withSel f.fn fun sel => .ok (.pwr sel f.a f.b)

/-- Group 3, PRD: `fn` is the selector, `b = 0` (R90). -/
def decodePrd (f : Fields) : Decoded := needZero (f.b == 0) <| withSel f.fn fun sel => .ok (.prd sel f.a)

/-- Group 4, POLY (R91). -/
def decodePoly (f : Fields) : Decoded :=
  match f.fn.toNat with
  | 0 => needZero (f.pa == 0 && f.pb == 0 && f.b == 0) <| withSel f.pd fun pd => .ok (.pclr pd)
  | 1 => needZero (f.pb == 0 && f.b == 0) <| withSel f.pd fun pd => withSel f.pa fun pa => .ok (.pmov pd pa)
  | 2 => formatP1S f .pdeg
  | 3 => formatP1S f .pisz
  | 4 => formatP3 f .padd
  | 5 => formatP3 f .pmul
  | 6 => needZero (f.pd == 0 && f.b == 0) <| withSel f.pa fun pa => withSel f.pb fun pb => .ok (.pdivmod pa pb)
  | 7 => needZero (f.pd == 0 && f.pb == 0) <| withSel f.pa fun pa => .ok (.peval pa f.b)
  | _ => .error .unassignedFunction

/-- Group 5, CODEC (R92). -/
def decodeCodec (f : Fields) : Decoded :=
  match f.fn.toNat with
  | 0 => formatI12 f .csetn
  | 1 => formatI12 f .csett
  | 2 => needZero (f.imm.extractLsb' 1 23 == 0) (.ok (.csetmode (.ofBit (f.imm.extractLsb' 0 1))))
  | 3 => formatA f .geng
  | 4 => formatA f .genb
  | 5 => formatZ f .enc
  | 6 => formatZ f .synd
  | 7 => formatZ f .bma
  | 8 => formatZ f .chien
  | 9 => formatZ f .omega
  | 10 => formatZ f .forney
  | 11 => formatZ f .correct
  | 12 => formatZ f .decode
  | _ => .error .unassignedFunction

/-- A command from its word's fields (R87, R93). -/
def decodeFields (f : Fields) : Decoded :=
  match f.grp.toNat with
  | 0 => decodeSys f
  | 1 => decodeFld f
  | 2 => decodePwr f
  | 3 => decodePrd f
  | 4 => decodePoly f
  | 5 => decodeCodec f
  | _ => .error .unassignedGroup

/-- Decoding a command word, total on all 2^32 words (R93). -/
def decode (w : Word) : Decoded := decodeFields (Fields.ofWord w)

/-- A 24-bit immediate split into the fields `a` and `b` (R83). -/
def immFields (grp fn : BitVec 4) (imm : BitVec 24) : Fields :=
  ⟨grp, fn, imm.extractLsb' 12 12, imm.extractLsb' 0 12⟩

/-- The fields of a command's word, from the tables of R88 to R92 and the formats of R85. -/
def encodeFields : Instr → Fields
  | .nop => ⟨0, 0, 0, 0⟩
  | .reset => ⟨0, 1, 0, 0⟩
  | .rdcsr c => ⟨0, 2, c.number, 0⟩
  | .fsetm m => immFields 1 0 m
  | .fsetp p => immFields 1 1 (p.setWidth 24)
  | .finit => ⟨1, 2, 0, 0⟩
  | .fadd a b => ⟨1, 3, a, b⟩
  | .fmul a b => ⟨1, 4, a, b⟩
  | .fdiv a b => ⟨1, 5, a, b⟩
  | .finv a => ⟨1, 6, a, 0⟩
  | .fpow a e => ⟨1, 7, a, e⟩
  | .fisprim a => ⟨1, 8, a, 0⟩
  | .fexp i => ⟨1, 9, i, 0⟩
  | .flog a => ⟨1, 10, a, 0⟩
  | .pwr sel i c => ⟨2, sel.number, i, c⟩
  | .prd sel i => ⟨3, sel.number, i, 0⟩
  | .pclr pd => ⟨4, 0, selectorField pd.number 0 0, 0⟩
  | .pmov pd pa => ⟨4, 1, selectorField pd.number pa.number 0, 0⟩
  | .pdeg pa => ⟨4, 2, selectorField 0 pa.number 0, 0⟩
  | .pisz pa => ⟨4, 3, selectorField 0 pa.number 0, 0⟩
  | .padd pd pa pb => ⟨4, 4, selectorField pd.number pa.number pb.number, 0⟩
  | .pmul pd pa pb => ⟨4, 5, selectorField pd.number pa.number pb.number, 0⟩
  | .pdivmod pa pb => ⟨4, 6, selectorField 0 pa.number pb.number, 0⟩
  | .peval pa x => ⟨4, 7, selectorField 0 pa.number 0, x⟩
  | .csetn n => ⟨5, 0, 0, n⟩
  | .csett t => ⟨5, 1, 0, t⟩
  | .csetmode mode => immFields 5 2 (mode.bit.setWidth 24)
  | .geng rho => ⟨5, 3, rho, 0⟩
  | .genb t => ⟨5, 4, t, 0⟩
  | .enc => ⟨5, 5, 0, 0⟩
  | .synd => ⟨5, 6, 0, 0⟩
  | .bma => ⟨5, 7, 0, 0⟩
  | .chien => ⟨5, 8, 0, 0⟩
  | .omega => ⟨5, 9, 0, 0⟩
  | .forney => ⟨5, 10, 0, 0⟩
  | .correct => ⟨5, 11, 0, 0⟩
  | .decode => ⟨5, 12, 0, 0⟩

/-- The word of a command. -/
def encode (i : Instr) : Word := (encodeFields i).toWord

/-- The command the decoder reads from a table row's word, bits numbered as the table numbers them: a row has all 32
bits of the one command word, and bits above `nbits` are 0 (R83). -/
def decodeTableWord (nbits w : Nat) : Option Instr :=
  match decode (BitVec.ofNat 32 (w % 2 ^ nbits)) with
  | .ok i => some i
  | .error _ => none

end Sys2Proof
end

