-- ==== Sys2Proof/Config.lean ====
section
/-! DEFINITION. What the implementation fixes: the sizes of 00_scope.md R8.
The core leaves no value of any command open (70_reset_and_hazards.md R270), so no free value stands here. -/

namespace Sys2Proof.Config

/-- Cells per array register, `PLEN` (00_scope.md R8, 10_state.md R30). -/
abbrev plen : Nat := 4096

/-- Smallest supported field extension (00_scope.md R7). -/
abbrev mMin : Nat := 3

/-- Largest supported field extension, `MMAX` (00_scope.md R7, R8). -/
abbrev mMax : Nat := 12

end Sys2Proof.Config
end

