-- ==== Sys2Proof/Machine/State.lean ====
section
/-! DEFINITION. The state of the core (10_state.md R20) with its port streams, the fault kinds, and the state after reset. -/

namespace Sys2Proof.Machine

/-- The cells of one array register as a list, index 0 first, with no trailing zero; a cell beyond the end reads 0.
This is the source's normalised polynomial (00_scope.md R12), so equal contents are equal lists. -/
abbrev Memory := List Cell

/-- The ten array registers (10_state.md R30). -/
structure ArrayFile where
  cw   : Memory
  g    : Memory
  syn  : Memory
  lam  : Memory
  bp   : Memory
  omg  : Memory
  qt   : Memory
  rm   : Memory
  epos : Memory
  eval : Memory
  deriving DecidableEq, Repr

/-- The six flags that `STATUS` shows (10_state.md R24, R39). -/
structure Status where
  /-- field valid -/
  fv  : Bool
  /-- all syndromes zero at the last syndrome computation -/
  sz  : Bool
  /-- success of the last `DECODE` or `CORRECT` -/
  ok  : Bool
  /-- too many roots at the last Chien search -/
  tmr : Bool
  /-- root and length mismatch at the last Chien search -/
  rlm : Bool
  /-- zero denominator at the last Forney computation -/
  fdz : Bool
  deriving DecidableEq, Repr

/-- What the host does at the ports: it offers a command word on `cmd`, or asserts `rst` (30_encoding.md R80,
70_reset_and_hazards.md R271). -/
inductive HostEvent where
  | command (w : Word)
  | rst
  deriving DecidableEq, Repr

/-- The fault kinds a command reports (60_exceptions.md R242). The machine goes on after each of them (R254), so they
are no `Fault` of the model: raising one is a next state. -/
inductive FaultKind where
  | invalidParameters
  | divideByZero
  /-- reserved, never raised (R245) -/
  | lengthMismatch
  | illegalCommand
  | notReady
  | operandRange
  | overflow
  | logOfZero
  | locked
  deriving DecidableEq, Repr

/-- The whole state (10_state.md R20). `pending` and `responses` are the model's own picture of the ports. -/
structure State where
  /-- `M` (R22) -/
  m : BitVec 4
  /-- `PRIM` (R23) -/
  prim : BitVec 13
  /-- `N` (R34) -/
  n : BitVec 12
  /-- `T` (R35) -/
  t : BitVec 11
  /-- `MODE` (R36) -/
  mode : Mode
  /-- `FV`, `SZ`, `OK`, `TMR`, `RLM`, `FDZ` (R39) -/
  status : Status
  /-- `EXP`, the cells that have a meaning (R26, R29) -/
  exp : List Cell
  /-- `LOG`, the cells that have a meaning (R27, R29) -/
  log : List Cell
  /-- the ten array registers (R30) -/
  arrays : ArrayFile
  /-- `L` (R37) -/
  l : BitVec 12
  /-- `POS` (R37) -/
  pos : BitVec 12
  /-- `BD` (R37) -/
  bd : BitVec 12
  /-- `NROOTS` (R38) -/
  nroots : BitVec 12
  /-- `ECNT` (R38) -/
  ecnt : BitVec 12
  /-- `RES` (R40) -/
  res : BitVec 16
  /-- `LASTERR` (R41) -/
  lasterr : BitVec 4
  /-- `ESTICKY` (R41) -/
  esticky : BitVec 16
  /-- what the host has yet to be served, in order (30_encoding.md R81; assumption 1) -/
  pending : List HostEvent
  /-- the response words presented so far, oldest first (30_encoding.md R81; assumption 2) -/
  responses : List Word
  deriving DecidableEq, Repr

/-- The field engine as the field functions see it: the extension and the two tables (41_field.md R120). -/
structure GF where
  m   : Nat
  exp : List Cell
  log : List Cell
  deriving DecidableEq, Repr

/-- Reasons for the machine to stop with a fault. There are none: "The core has no `stuck` state: after any command,
legal or not, it accepts the next" (93_implementation_defined.md section 1). -/
inductive Fault where
  deriving DecidableEq, Repr

/-- Reasons for the model to refuse an instruction. -/
inductive Refusal where
  /-- Raised by an arm of `exec` that has no meaning yet, under its mnemonic; no arm raises it now. Safe: a run that
  meets it stops. -/
  | notModelled (mnemonic : String)
  deriving DecidableEq, Repr

/-- The outcome of one step of this machine. -/
abbrev Result := Host.Outcome State Fault Refusal

/-- The state after reset (10_state.md R43): every register, flag and array cell 0, which is `BCH` for `MODE`. The
tables hold no cell, since all of theirs are unobservable then (R29; assumption 6), and the port streams are empty. -/
def State.reset : State where
  m := 0
  prim := 0
  n := 0
  t := 0
  mode := .bch
  status := ⟨false, false, false, false, false, false⟩
  exp := []
  log := []
  arrays := ⟨[], [], [], [], [], [], [], [], [], []⟩
  l := 0
  pos := 0
  bd := 0
  nroots := 0
  ecnt := 0
  res := 0
  lasterr := 0
  esticky := 0
  pending := []
  responses := []

end Sys2Proof.Machine
end

