-- ==== Sys2Proof/Machine/Ops.lean ====
section
/-! DEFINITION. The named operations over cells and registers: cell access, register writes, success, the fault
mechanism (60_exceptions.md R241) and reset (70_reset_and_hazards.md R270). -/

namespace Sys2Proof.Machine

/-! ### Array registers -/

/-- Cell `i`; beyond the end of the list a cell reads 0 (42_polynomial.md R153). -/
def Memory.read (mem : Memory) (i : Nat) : Cell := mem.getD i 0

/-- Coefficients without the zeros above the degree: the normalised form (00_scope.md R12). -/
def Memory.trim : List Cell → Memory
  | [] => []
  | c :: cs =>
    match Memory.trim cs with
    | [] => if c = 0 then [] else [c]
    | d :: ds => c :: d :: ds

/-- A list with place `i` set, zeros filling any gap before it. -/
def Memory.put : List Cell → Nat → Cell → List Cell
  | [], 0, v => [v]
  | [], i + 1, v => 0 :: Memory.put [] i v
  | _ :: cs, 0, v => v :: cs
  | c :: cs, i + 1, v => c :: Memory.put cs i v

/-- The array that a whole-array write `A[s] <- p` leaves: coefficient `i` in cell `i` for `i` in `[0, PLEN)`, and 0
beyond the end of `p` (00_scope.md R11). -/
def Memory.store (p : List Cell) : Memory := Memory.trim (p.take Config.plen)

/-- The array with one cell written. -/
def Memory.write (mem : Memory) (i : Nat) (v : Cell) : Memory := Memory.store (Memory.put mem i v)

/-- The array with the cells from `base` on written in turn. -/
def Memory.writeFrom (mem : Memory) (base : Nat) : List Cell → Memory
  | [] => mem
  | v :: vs => Memory.writeFrom (Memory.write mem base v) (base + 1) vs

/-- The canonical form: at most `PLEN` cells and no trailing zero. -/
def Memory.wf (mem : Memory) : Bool := decide (mem.length ≤ Config.plen) && mem.getLast? != some 0

/-- The array register with a selector (10_state.md R30). -/
def ArrayFile.get (f : ArrayFile) : ArrSel → Memory
  | .cw => f.cw
  | .g => f.g
  | .syn => f.syn
  | .lam => f.lam
  | .bp => f.bp
  | .omg => f.omg
  | .qt => f.qt
  | .rm => f.rm
  | .epos => f.epos
  | .eval => f.eval

/-- The array file with one array register replaced. -/
def ArrayFile.set (f : ArrayFile) (sel : ArrSel) (mem : Memory) : ArrayFile :=
  match sel with
  | .cw => { f with cw := mem }
  | .g => { f with g := mem }
  | .syn => { f with syn := mem }
  | .lam => { f with lam := mem }
  | .bp => { f with bp := mem }
  | .omg => { f with omg := mem }
  | .qt => { f with qt := mem }
  | .rm => { f with rm := mem }
  | .epos => { f with epos := mem }
  | .eval => { f with eval := mem }

/-- The array register `A[s]`. -/
def State.arr (s : State) (sel : ArrSel) : Memory := s.arrays.get sel

/-- The whole-array write `A[sel] <- p` (00_scope.md R11). Every write to an array register goes through here. -/
def State.setArr (s : State) (sel : ArrSel) (p : List Cell) : State :=
  { s with arrays := s.arrays.set sel (Memory.store p) }

/-! ### Register writes, one for each group of registers a command writes together -/

/-- `M` and `PRIM` (41_field.md R121). -/
def State.setField (s : State) (m : BitVec 4) (prim : BitVec 13) : State := { s with m := m, prim := prim }

/-- `PRIM` (41_field.md R122). -/
def State.setPrim (s : State) (prim : BitVec 13) : State := { s with prim := prim }

/-- `EXP` and `LOG` (41_field.md R124). -/
def State.setTables (s : State) (exp log : List Cell) : State := { s with exp := exp, log := log }

/-- `N` (43_generator_encoder.md R181). -/
def State.setN (s : State) (n : BitVec 12) : State := { s with n := n }

/-- `T` (43_generator_encoder.md R182). -/
def State.setT (s : State) (t : BitVec 11) : State := { s with t := t }

/-- `MODE` (43_generator_encoder.md R183). -/
def State.setMode (s : State) (mode : Mode) : State := { s with mode := mode }

/-- The flags (10_state.md R39). -/
def State.setStatus (s : State) (st : Status) : State := { s with status := st }

/-- `L`, `POS` and `BD` (44_decoder.md R206). -/
def State.setBm (s : State) (l pos bd : BitVec 12) : State := { s with l := l, pos := pos, bd := bd }

/-- `NROOTS` (44_decoder.md R214). -/
def State.setNroots (s : State) (k : BitVec 12) : State := { s with nroots := k }

/-- `ECNT` (44_decoder.md R222). -/
def State.setEcnt (s : State) (k : BitVec 12) : State := { s with ecnt := k }

/-- `RES` (10_state.md R40). -/
def State.setRes (s : State) (v : BitVec 16) : State := { s with res := v }

/-- What the host has yet to be served. -/
def State.setPending (s : State) (es : List HostEvent) : State := { s with pending := es }

/-- Presenting one response word on `rsp` (30_encoding.md R81). -/
def State.respond (s : State) (w : Word) : State := { s with responses := s.responses ++ [w] }

/-! ### Success and fault -/

/-- The response of a command that succeeded: `err` 0, bits 27:16 zero, `val` the value of `RES` (30_encoding.md R84). -/
def okWord (res : BitVec 16) : Word := (0 : BitVec 16) ++ res

/-- The fault kind codes (60_exceptions.md R242). -/
def FaultKind.code : FaultKind → BitVec 4
  | .invalidParameters => 1
  | .divideByZero => 2
  | .lengthMismatch => 3
  | .illegalCommand => 4
  | .notReady => 5
  | .operandRange => 6
  | .overflow => 7
  | .logOfZero => 8
  | .locked => 9

/-- The response of a command that faulted: `err` the code, the rest 0, which is `c · 2^28` (30_encoding.md R84,
60_exceptions.md R241). -/
def FaultKind.word (k : FaultKind) : Word := k.code ++ (0 : BitVec 28)

/-- `LASTERR <- c`; `ESTICKY[c] <- 1` (60_exceptions.md R241). -/
def State.recordFault (s : State) (k : FaultKind) : State :=
  { s with lasterr := k.code, esticky := s.esticky ||| ((1 : BitVec 16) <<< k.code.toNat) }

/-- `raise K`, the one fault path (60_exceptions.md R241, R254, R257): the two fault registers are written, the
response carries the code, nothing else changes. There is no handler and no return (R255). -/
def raise (k : FaultKind) (s : State) : Result := .next ((s.recordFault k).respond k.word)

/-- A command that succeeds with scalar result `v`: `RES <- v`, and the response carries it (10_state.md R40). -/
def succeed (v : BitVec 16) (s : State) : Result := .next ((s.setRes v).respond (okWord v))

/-- The kind of the first check that fails, if one does: the order of the list is the order of the checks
(60_exceptions.md R253). -/
def firstFailing : List (Bool × FaultKind) → Option FaultKind
  | [] => none
  | (failed, k) :: rest => if failed then some k else firstFailing rest

/-- A command: its checks, all made before its first write (60_exceptions.md R241), and what it does when all pass. -/
def attempt (checks : List (Bool × FaultKind)) (s : State) (effect : State → Result) : Result :=
  match firstFailing checks with
  | some k => raise k s
  | none => effect s

/-! ### Reset -/

/-- Every piece of the core's state at its reset value; the port streams belong to the host and stay
(70_reset_and_hazards.md R270, 40_system.md R112; assumption 5). -/
def State.resetCore (s : State) : State :=
  { State.reset with pending := s.pending, responses := s.responses }

end Sys2Proof.Machine
end

