-- ==== Sys2Proof/Machine/FieldArith.lean ====
section
/-! DEFINITION. The field functions of 41_field.md section 3 and the table construction of its section 2. All index
arithmetic is on natural numbers, exact, with one reduction modulo `ORD` (R143). -/

namespace Sys2Proof.Machine

/-! ### The field functions -/

/-- `ORD = 2^M − 1` (00_scope.md R11). -/
def GF.ord (F : GF) : Nat := 2 ^ F.m - 1

/-- `EXP[i]`; callers reduce `i` modulo `ORD` first (10_state.md R26). -/
def GF.expAt (F : GF) (i : Nat) : Cell := F.exp.getD i 0

/-- `LOG[a]`; callers test `a` for zero first (10_state.md R27). -/
def GF.logAt (F : GF) (a : Cell) : Nat := (F.log.getD a.toNat 0).toNat

/-- `alpha(i) = EXP[i mod ORD]` (00_scope.md R11). -/
def GF.alpha (F : GF) (i : Nat) : Cell := F.expAt (i % F.ord)

/-- `alpha_neg(i) = EXP[(ORD − (i mod ORD)) mod ORD]` (00_scope.md R11). -/
def GF.alphaNeg (F : GF) (i : Nat) : Cell := F.expAt ((F.ord - i % F.ord) % F.ord)

/-- `gf_add(a, b) = a xor b` (R126). -/
def gfAdd (a b : Cell) : Cell := a ^^^ b

/-- `gf_mul(a, b)` (R127). -/
def GF.mul (F : GF) (a b : Cell) : Cell :=
  if a = 0 ∨ b = 0 then 0 else F.expAt ((F.logAt a + F.logAt b) % F.ord)

/-- `gf_div(a, b)` for a divisor known not to be zero: R128 after its first test. -/
def GF.quot (F : GF) (a b : Cell) : Cell :=
  if a = 0 then 0 else F.expAt ((F.logAt a + F.ord - F.logAt b) % F.ord)

/-- `gf_inv(a)` for an operand known not to be zero: R129 after its test. -/
def GF.inv (F : GF) (a : Cell) : Cell := F.expAt ((F.ord - F.logAt a) % F.ord)

/-- `gf_pow(a, e)` (R130). -/
def GF.pow (F : GF) (a : Cell) (e : Nat) : Cell :=
  if a = 0 then (if e = 0 then 1 else 0) else F.expAt (F.logAt a * e % F.ord)

/-- `is_primitive(x)`: the least `e ≥ 1` with `gf_pow(x, e) = 1` is `ORD`; false for 0, which has no order (R131). -/
def GF.isPrimitive (F : GF) (x : Cell) : Bool :=
  x != 0 && F.pow x F.ord == 1 && (List.range F.ord).all (fun e => e == 0 || F.pow x e != 1)

/-! ### Table construction (R124) -/

/-- The default primitive polynomials, and 0 where the source gives none (R121, R123). -/
def defPoly (m : Nat) : BitVec 13 :=
  match m with
  | 3 => 0x0B
  | 4 => 0x13
  | 5 => 0x25
  | 6 => 0x43
  | 7 => 0x89
  | 8 => 0x11D
  | 10 => 0x409
  | 12 => 0x1053
  | _ => 0

/-- One step of R124: shift left by one; if bit `M` is set, XOR with `PRIM`. -/
def timesAlpha (m : Nat) (prim v : BitVec 13) : BitVec 13 :=
  let d := v <<< 1
  if d.getLsbD m then d ^^^ prim else d

/-- The `count` values that follow `v` in the sequence of R124. -/
def alphaSeqFrom (m : Nat) (prim : BitVec 13) : Nat → BitVec 13 → List (BitVec 13)
  | 0, _ => []
  | count + 1, v => timesAlpha m prim v :: alphaSeqFrom m prim count (timesAlpha m prim v)

/-- `seq[1] … seq[ORD]` (R124). -/
def alphaSeq (m : Nat) (prim : BitVec 13) : List (BitVec 13) := alphaSeqFrom m prim (2 ^ m - 1) 1

/-- `EXP[0 .. ORD)` after the loop of R124: `EXP[i] = seq[i]` for `1 ≤ i < ORD`, and the last iteration writes
`EXP[0] <- seq[ORD]`. -/
def expTable (m : Nat) (prim : BitVec 13) : List Cell :=
  let seq := alphaSeq m prim
  (seq.getLastD 1 :: seq.dropLast).map (fun v => v.setWidth 12)

/-- `LOG[EXP[i]] <- i` for the cells of a list from place `i` on, ascending (R124). -/
def fillLog : List Cell → Nat → List Cell → List Cell
  | [], _, log => log
  | v :: vs, i, log => fillLog vs (i + 1) (log.set v.toNat (BitVec.ofNat 12 i))

/-- `LOG[0 .. 2^M)` after the second loop of R124, with the conventional `LOG[0] <- 0`. -/
def logTable (m : Nat) (exp : List Cell) : List Cell :=
  (fillLog exp 0 (List.replicate (2 ^ m) 0)).set 0 0

/-- `PRIM` is of degree `M`: `⌊PRIM / 2^M⌋ = 1` (R125 check 4). -/
def degreeIs (m : Nat) (prim : BitVec 13) : Bool := prim.toNat / 2 ^ m == 1

/-- The powers of α first return to 1 at exponent exactly `ORD`: `seq[i] ≠ 1` for `1 ≤ i ≤ ORD − 1` and `seq[ORD] = 1`
(R125 check 5). -/
def alphaHasFullOrder (m : Nat) (prim : BitVec 13) : Bool :=
  let seq := alphaSeq m prim
  seq.dropLast.all (fun v => v != 1) && seq.getLast? == some 1

end Sys2Proof.Machine
end

