-- ==== Sys2Proof/Machine/PolyArith.lean ====
section
/-! DEFINITION. The polynomial functions of 42_polynomial.md section 2, on lists of coefficients, index 0 first; a
coefficient beyond the end of a list is 0. -/

namespace Sys2Proof.Machine

/-- `is_zero(p)` (R152). -/
def polyIsZero (p : List Cell) : Bool := p.all (fun c => c == 0)

/-- `deg(p)`: the largest `i` with `p_i ≠ 0`, and 0 for the zero polynomial (R151). -/
def polyDeg (p : List Cell) : Nat := (Memory.trim p).length - 1

/-- `poly_add(a, b)` (R154). -/
def polyAdd : List Cell → List Cell → List Cell
  | [], bs => bs
  | as, [] => as
  | a :: as, b :: bs => gfAdd a b :: polyAdd as bs

/-- `c·p(x)` for a field element `c`. -/
def polyScale (F : GF) (c : Cell) (p : List Cell) : List Cell :=
  if c = 0 then [] else p.map (fun d => F.mul c d)

/-- `x^k·p(x)`. -/
def polyShift (k : Nat) (p : List Cell) : List Cell := List.replicate k 0 ++ p

/-- `poly_mul(a, b)`, schoolbook convolution: `(a_0 + x·a'(x))·b(x) = a_0·b(x) + x·(a'(x)·b(x))` (R155). -/
def polyMul (F : GF) : List Cell → List Cell → List Cell
  | [], _ => []
  | a :: as, b => polyAdd (polyScale F a b) (0 :: polyMul F as b)

/-- `poly_eval(p, x)`: Horner from high to low coefficient (R156). -/
def polyEval (F : GF) (p : List Cell) (x : Cell) : Cell :=
  p.foldr (fun c acc => gfAdd (F.mul acc x) c) 0

/-- The while loop of R157 on the pair (quotient, remainder), for at most `fuel` passes. `db` and `lb` are the degree
and the leading coefficient of the divisor `b`, which is not zero. -/
def divLoop (F : GF) (b : List Cell) (db : Nat) (lb : Cell) : Nat → List Cell → List Cell → List Cell × List Cell
  | 0, q, r => (q, r)
  | fuel + 1, q, r =>
    if polyIsZero r || polyDeg r < db then (q, r)
    else
      let dr := polyDeg r
      let k := dr - db
      let c := F.quot (Memory.read r dr) lb
      divLoop F b db lb fuel (Memory.put q k c) (Memory.trim (polyAdd r (polyShift k (polyScale F c b))))

/-- `poly_divmod(a, b)` for a divisor that is not zero: (quotient, remainder) (R157). Each pass lowers the degree of the
remainder, so as many passes as `a` has coefficients are enough. -/
def polyDivmod (F : GF) (a b : List Cell) : List Cell × List Cell :=
  let b' := Memory.trim b
  let db := polyDeg b
  divLoop F b' db (Memory.read b' db) a.length [] (Memory.trim a)

/-- `poly_deriv(p)` in characteristic two: coefficient `i` is `p_(i+1)` for even `i` and 0 for odd `i` (R158). -/
def polyDeriv : List Cell → List Cell
  | [] => []
  | [_] => []
  | _ :: c :: rest => c :: 0 :: polyDeriv rest

end Sys2Proof.Machine
end

