-- ==== Sys2Proof/Machine/Flags.lean ====
section
/-! DEFINITION. Every flag computation: the `STATUS` view and the values the decoder commands give the flags
(10_state.md R39). -/

namespace Sys2Proof.Machine

/-- A one-bit result as a value of `RES`. -/
def flagValue (b : Bool) : BitVec 16 := if b then 1 else 0

/-- `STATUS` as `RDCSR` returns it: bits 0 to 5 are `FV`, `SZ`, `OK`, `TMR`, `RLM`, `FDZ`, bits 15 to 6 are 0 (R39). -/
def Status.value (st : Status) : BitVec 16 :=
  (0 : BitVec 10) ++ BitVec.ofBool st.fdz ++ BitVec.ofBool st.rlm ++ BitVec.ofBool st.tmr ++ BitVec.ofBool st.ok
    ++ BitVec.ofBool st.sz ++ BitVec.ofBool st.fv

/-- `SZ`: all 2T syndromes are 0 (44_decoder.md R202). -/
def szFlag (syndromes : List Cell) : Bool := syndromes.all (fun v => v == 0)

/-- `TMR`: `NROOTS > T` (44_decoder.md R214). -/
def tmrFlag (nroots : Nat) (t : BitVec 11) : Bool := t.toNat < nroots

/-- `RLM`: `NROOTS ≠ L` (44_decoder.md R214). -/
def rlmFlag (nroots : Nat) (l : BitVec 12) : Bool := nroots != l.toNat

/-- The decoder failure conditions: `TMR`, `RLM`, and in RS mode `FDZ` (44_decoder.md R230). -/
def Status.failed (st : Status) (mode : Mode) : Bool := st.tmr || st.rlm || (mode == .rs && st.fdz)

end Sys2Proof.Machine
end

