-- ==== Sys2Proof/Machine/Operands.lean ====
section
/-! DEFINITION. The operand forms: what an operand of each kind stands for and the checks on it (30_encoding.md R86),
and the checks that several commands share. -/

namespace Sys2Proof.Machine

/-- The field engine's view of the state. -/
def State.gf (s : State) : GF := ⟨s.m.toNat, s.exp, s.log⟩

/-- The operand is no field element: it is 2^M or more (60_exceptions.md R248). -/
def State.outOfField (s : State) (a : Cell) : Bool := 2 ^ s.m.toNat ≤ a.toNat

/-- A field element, cell, index, degree or count as a value of `RES` (10_state.md R40). -/
def cellValue (a : BitVec 12) : BitVec 16 := a.setWidth 16

/-- A degree or a count as a value of `RES`. -/
def countValue (k : Nat) : BitVec 16 := BitVec.ofNat 16 k

/-- The value of a register `RDCSR` reads, zero extended (10_state.md R42, 40_system.md R113). -/
def State.csrValue (s : State) : Csr → BitVec 16
  | .m => s.m.setWidth 16
  | .prim => s.prim.setWidth 16
  | .n => s.n.setWidth 16
  | .t => s.t.setWidth 16
  | .mode => s.mode.bit.setWidth 16
  | .status => s.status.value
  | .l => s.l.setWidth 16
  | .pos => s.pos.setWidth 16
  | .bd => s.bd.setWidth 16
  | .nroots => s.nroots.setWidth 16
  | .ecnt => s.ecnt.setWidth 16
  | .lasterr => s.lasterr.setWidth 16
  | .esticky => s.esticky

/-- `FV = 0` → `raise NotReady` (60_exceptions.md R246). -/
def State.needField (s : State) : Bool × FaultKind := (!s.status.fv, .notReady)

/-- `FV = 1` → `raise Locked` (60_exceptions.md R251). -/
def State.needUnlocked (s : State) : Bool × FaultKind := (s.status.fv, .locked)

/-- An element operand of 2^M or more → `raise OperandRange` (60_exceptions.md R248). -/
def State.needElement (s : State) (a : Cell) : Bool × FaultKind := (s.outOfField a, .operandRange)

/-- Some cell of a list is above 1: in BCH mode a symbol is a bit (60_exceptions.md R248). -/
def notBinary (cells : List Cell) : Bool := cells.any (fun c => 1 < c.toNat)

/-- The symbols `CW[0 .. N)` (44_decoder.md R201). -/
def State.received (s : State) : List Cell := s.arrays.cw.take s.n.toNat

/-- The checks of `GeomOK` (43_generator_encoder.md R184). -/
def State.geomChecks (s : State) : List (Bool × FaultKind) :=
  [ s.needField,
    (s.n == 0, .invalidParameters),
    (s.mode == .bch && s.n.toNat != 2 ^ s.m.toNat - 1, .invalidParameters) ]

/-- The checks of `DecOK` (43_generator_encoder.md R185). -/
def State.decChecks (s : State) : List (Bool × FaultKind) :=
  s.geomChecks ++ [(s.t == 0 || s.n.toNat - 1 < 2 * s.t.toNat, .invalidParameters)]

/-- In BCH mode a symbol of the received word that is no bit → `raise OperandRange` (44_decoder.md R202, R231). -/
def State.needBits (s : State) : Bool × FaultKind := (s.mode == .bch && notBinary s.received, .operandRange)

end Sys2Proof.Machine
end

