-- ==== Sys2Proof/Machine/Decoder.lean ====
section
/-! DEFINITION. The decoder: syndromes, Berlekamp-Massey, Chien, Ω, Forney, correction (44_decoder.md). Each phase is a
function on the state, run by its own command and by `DECODE`. -/

namespace Sys2Proof.Machine

/-! ### Syndromes -/

/-- `S_1 … S_2T`: Horner evaluation of `CW[0 .. N)` at `alpha(1) … alpha(2T)` (R201). -/
def State.syndromes (s : State) : List Cell :=
  (List.range (2 * s.t.toNat)).map fun j => polyEval s.gf s.received (s.gf.alpha (j + 1))

/-- The operation of `SYND` (R202). -/
def State.syndPhase (s : State) : State :=
  (s.setArr .syn s.syndromes).setStatus { s.status with sz := szFlag s.syndromes }

/-- `SYND` (R202). -/
def execSynd (s : State) : Result :=
  attempt (s.decChecks ++ [s.needBits]) s fun s =>
    let s' := s.syndPhase
    succeed (flagValue s'.status.sz) s'

/-! ### Berlekamp-Massey -/

/-- The variables of the loop of R204. -/
structure BmVars where
  lam : List Cell
  bp  : List Cell
  l   : Nat
  pos : Nat
  bd  : Cell
  deriving DecidableEq, Repr

/-- `LAM <- [1]; BP <- [1]; L <- 0; POS <- 1; BD <- 1` (R204). -/
def bmStart : BmVars := ⟨[1], [1], 0, 1, 1⟩

/-- The discrepancy `d` of iteration `q` (R204). -/
def discrepancy (F : GF) (syn : Memory) (q : Nat) (v : BmVars) : Cell :=
  (List.range' 1 v.l).foldl
    (fun d i => if i ≤ q then gfAdd d (F.mul (Memory.read v.lam i) (Memory.read syn (q - i))) else d)
    (Memory.read syn q)

/-- One iteration of R204. -/
def bmStep (F : GF) (syn : Memory) (v : BmVars) (q : Nat) : BmVars :=
  let d := discrepancy F syn q v
  if d = 0 then { v with pos := v.pos + 1 }
  else
    let lam := polyAdd v.lam (polyShift v.pos (polyScale F (F.quot d v.bd) v.bp))
    if 2 * v.l ≤ q then ⟨lam, v.lam, q + 1 - v.l, 1, d⟩
    else { v with lam := lam, pos := v.pos + 1 }

/-- The loop of R204, `q` from 0 to `2T − 1`. -/
def berlekampMassey (F : GF) (syn : Memory) (t : Nat) : BmVars :=
  (List.range (2 * t)).foldl (bmStep F syn) bmStart

/-- The operation of `BMA` (R206). -/
def State.bmaPhase (s : State) : State :=
  let v := berlekampMassey s.gf s.arrays.syn s.t.toNat
  ((s.setArr .lam v.lam).setArr .bp v.bp).setBm (BitVec.ofNat 12 v.l) (BitVec.ofNat 12 v.pos) v.bd

/-- `BMA` (R206). -/
def execBma (s : State) : Result :=
  attempt s.decChecks s fun s =>
    let s' := s.bmaPhase
    succeed (cellValue s'.l) s'

/-! ### Chien search -/

/-- The error positions: all `i` in `[0, N)`, ascending, with `Λ(α^(−i)) = 0` (R210). -/
def State.chienRoots (s : State) : List Nat :=
  (List.range s.n.toNat).filter fun i => polyEval s.gf s.arrays.lam (s.gf.alphaNeg i) == 0

/-- The operation of `CHIEN` (R214). -/
def State.chienPhase (s : State) : State :=
  let roots := s.chienRoots
  ((s.setArr .epos (roots.map (BitVec.ofNat 12))).setNroots (BitVec.ofNat 12 roots.length)).setStatus
    { s.status with tmr := tmrFlag roots.length s.t, rlm := rlmFlag roots.length s.l }

/-- `CHIEN` (R214). -/
def execChien (s : State) : Result :=
  attempt s.decChecks s fun s =>
    let s' := s.chienPhase
    succeed (cellValue s'.nroots) s'

/-! ### Error evaluator and Forney -/

/-- `Ω_i`, the XOR over `j` in `[0, i]` of `gf_mul(SYN[j], LAM[i − j])` (R216). -/
def omegaCoef (F : GF) (syn lam : Memory) (i : Nat) : Cell :=
  (List.range (i + 1)).foldl (fun acc j => gfAdd acc (F.mul (Memory.read syn j) (Memory.read lam (i - j)))) 0

/-- The operation of `OMEGA`: `Ω` truncated to `2T` coefficients (R216, R217). -/
def State.omegaPhase (s : State) : State :=
  s.setArr .omg ((List.range (2 * s.t.toNat)).map (omegaCoef s.gf s.arrays.syn s.arrays.lam))

/-- `OMEGA` (R217). -/
def execOmega (s : State) : Result := attempt s.decChecks s fun s => succeed 0 s.omegaPhase

/-- The denominator `Λ′(X^(−1))` of position `p` (R218). -/
def State.forneyDen (s : State) (p : Cell) : Cell :=
  polyEval s.gf (polyDeriv s.arrays.lam) (s.gf.alphaNeg p.toNat)

/-- The value of position `p`: `Ω(X^(−1)) / Λ′(X^(−1))`, and 0 where the denominator is 0 (R218). -/
def State.forneyValue (s : State) (p : Cell) : Cell :=
  if s.forneyDen p = 0 then 0
  else s.gf.quot (polyEval s.gf s.arrays.omg (s.gf.alphaNeg p.toNat)) (s.forneyDen p)

/-- The listed positions `EPOS[0 .. NROOTS)`. -/
def State.positions (s : State) : List Cell :=
  (List.range s.nroots.toNat).map fun j => Memory.read s.arrays.epos j

/-- The operation of `FORNEY` (R218, R219). -/
def State.forneyPhase (s : State) : State :=
  (s.setArr .eval (s.positions.map s.forneyValue)).setStatus
    { s.status with fdz := s.positions.any fun p => s.forneyDen p == 0 }

/-- `FORNEY` (R219): a zero denominator is a flag, not a fault. -/
def execForney (s : State) : Result :=
  attempt s.decChecks s fun s =>
    let s' := s.forneyPhase
    succeed (flagValue s'.status.fdz) s'

/-! ### Correction -/

/-- What is added to the cell of listed error `j`: 1 in BCH mode, `EVAL[j]` in RS mode (R222). -/
def State.magnitude (s : State) (j : Nat) : Cell :=
  match s.mode with
  | .bch => 1
  | .rs => Memory.read s.arrays.eval j

/-- `CW[p] <- CW[p] xor` the magnitude, for listed error `j` at `p = EPOS[j]` (R222). A position at `N` or above, which
only the host can have listed, is passed over: no codec command reads or writes such a cell (10_state.md R33; DEDUCED,
assumption 10). -/
def State.correctCell (s : State) (cw : Memory) (j : Nat) : Memory :=
  let p := (Memory.read s.arrays.epos j).toNat
  if p < s.n.toNat then Memory.write cw p (gfAdd (Memory.read cw p) (s.magnitude j)) else cw

/-- `apply_correction` (R222). -/
def State.applyCorrection (s : State) : State :=
  ((s.setArr .cw ((List.range s.nroots.toNat).foldl s.correctCell s.arrays.cw)).setEcnt s.nroots).setStatus
    { s.status with ok := true }

/-- The operation of `CORRECT` (R223). -/
def State.correctPhase (s : State) : State :=
  if s.status.sz then (s.setEcnt 0).setStatus { s.status with ok := true }
  else if s.status.failed s.mode then (s.setEcnt 0).setStatus { s.status with ok := false }
  else s.applyCorrection

/-- `CORRECT` (R223). -/
def execCorrect (s : State) : Result :=
  attempt s.decChecks s fun s =>
    let s' := s.correctPhase
    succeed (flagValue s'.status.ok) s'

/-! ### The whole decoder -/

/-- The first two lines of R231: the record of one decode does not inherit from the one before. -/
def State.clearDecode (s : State) : State :=
  ((((s.setNroots 0).setArr .epos []).setArr .eval []).setEcnt 0).setStatus
    { s.status with tmr := false, rlm := false, fdz := false, ok := false }

/-- `OMEGA` and `FORNEY` in RS mode; nothing in BCH mode (R231). -/
def State.magnitudePhase (s : State) : State :=
  match s.mode with
  | .bch => s
  | .rs => s.omegaPhase.forneyPhase

/-- The part of R231 after the Chien search. -/
def State.finishDecode (s : State) : State :=
  if s.status.tmr || s.status.rlm then s
  else
    let s' := s.magnitudePhase
    if s'.mode == .rs && s'.status.fdz then s' else s'.applyCorrection

/-- The operation of `DECODE` (R231). -/
def State.decodePhase (s : State) : State :=
  let s' := s.clearDecode.syndPhase
  if s'.status.sz then s'.setStatus { s'.status with ok := true }
  else s'.bmaPhase.chienPhase.finishDecode

/-- `DECODE` (R231). -/
def execDecode (s : State) : Result :=
  attempt (s.decChecks ++ [s.needBits]) s fun s =>
    let s' := s.decodePhase
    succeed (flagValue s'.status.ok) s'

end Sys2Proof.Machine
end

