-- ==== Sys2Proof/Machine/Encoder.lean ====
section
/-! DEFINITION. Code parameters, generator polynomials and the systematic encoder (43_generator_encoder.md). -/

namespace Sys2Proof.Machine

/-! ### Code parameters -/

/-- `CSETN n` (R181). -/
def execCsetn (n : BitVec 12) (s : State) : Result :=
  attempt [s.needField, (n.toNat < 1 || 2 ^ s.m.toNat - 1 < n.toNat, .invalidParameters)]
    s fun s => succeed 0 (s.setN n)

/-- A capacity `t` out of range: `t < 1` or `2t > 2^M − 2` (R182, R189). -/
def State.badCapacity (s : State) (t : BitVec 12) : Bool := t.toNat < 1 || 2 ^ s.m.toNat - 2 < 2 * t.toNat

/-- `CSETT t` (R182). -/
def execCsett (t : BitVec 12) (s : State) : Result :=
  attempt [s.needField, (s.badCapacity t, .invalidParameters)] s fun s => succeed 0 (s.setT (t.setWidth 11))

/-- `CSETMODE mode` (R183). -/
def execCsetmode (mode : Mode) (s : State) : Result :=
  attempt [s.needField] s fun s => succeed 0 (s.setMode mode)

/-! ### Generator polynomials -/

/-- The product of `x − α^j` over a list of exponents, factor by factor, where `x − α^j` is `[alpha(j), 1]`
(R186, R188). -/
def productOfRoots (F : GF) (js : List Nat) : List Cell :=
  js.foldl (fun g j => polyMul F g [F.alpha j, 1]) [1]

/-- `gen_roots(ρ)` (R186). -/
def genRoots (F : GF) (rho : Nat) : List Cell := productOfRoots F (List.range' 1 rho)

/-- `i·2^k mod ORD` for `i` in `[1, 2t]` and `k` in `[0, M)`: doubling `M` times comes back to `i` (assumption 13). -/
def doublings (F : GF) (t : Nat) : List Nat :=
  (List.range' 1 (2 * t)).flatMap fun i => (List.range F.m).map fun k => i * 2 ^ k % F.ord

/-- The closure `C` of `{1, …, 2t}` under doubling modulo `ORD`, ascending (R188). -/
def doublingClosure (F : GF) (t : Nat) : List Nat :=
  let ds := doublings F t
  (List.range F.ord).filter fun j => ds.contains j

/-- `gen_binary(t)` (R188). -/
def genBinary (F : GF) (t : Nat) : List Cell := productOfRoots F (doublingClosure F t)

/-- `GENG rho` (R187): the result is the degree, `rho`. -/
def execGeng (rho : BitVec 12) (s : State) : Result :=
  attempt [s.needField, (rho.toNat < 1 || 2 ^ s.m.toNat - 2 < rho.toNat, .invalidParameters)]
    s fun s => succeed (cellValue rho) (s.setArr .g (genRoots s.gf rho.toNat))

/-- `GENB t` (R189): the result is the degree. -/
def execGenb (t : BitVec 12) (s : State) : Result :=
  attempt [s.needField, (s.badCapacity t, .invalidParameters)]
    s fun s =>
      let g := genBinary s.gf t.toNat
      succeed (countValue (polyDeg g)) (s.setArr .g g)

/-! ### The encoder -/

/-- The parity length `r = deg(G)` (R192). -/
def State.parityLength (s : State) : Nat := polyDeg s.arrays.g

/-- The number of data symbols `k = N − r` (R192). -/
def State.dataLength (s : State) : Nat := s.n.toNat - s.parityLength

/-- Where data symbol 0 stands in `CW`: BCH `[parity | data]`, RS `[data | parity]` (10_state.md R33). -/
def State.dataBase (s : State) : Nat :=
  match s.mode with
  | .bch => s.parityLength
  | .rs => 0

/-- Where parity symbol 0 stands in `CW` (10_state.md R33). -/
def State.parityBase (s : State) : Nat :=
  match s.mode with
  | .bch => 0
  | .rs => s.dataLength

/-- The `k` data symbols of `CW` (R190). -/
def State.dataSymbols (s : State) : List Cell :=
  (List.range s.dataLength).map fun i => Memory.read s.arrays.cw (s.dataBase + i)

/-- The parity symbols: coefficients 0 to `r − 1` of `d(x)·x^r mod g(x)` (R190). -/
def State.paritySymbols (s : State) : List Cell :=
  let rem := (polyDivmod s.gf (polyShift s.parityLength s.dataSymbols) s.arrays.g).2
  (List.range s.parityLength).map fun j => Memory.read rem j

/-- The effect of `ENC`: the parity cells of `CW` are written, nothing else (R190, R191). -/
def State.encodeWord (s : State) : State :=
  s.setArr .cw (Memory.writeFrom s.arrays.cw s.parityBase s.paritySymbols)

/-- `ENC` (R191). -/
def execEnc (s : State) : Result :=
  attempt
    (s.geomChecks ++
    [ (polyIsZero s.arrays.g, .invalidParameters),
      (s.parityLength < 1 || s.n.toNat - 1 < s.parityLength, .invalidParameters),
      (s.mode == .rs && s.n.toNat != 2 ^ s.m.toNat - 1, .invalidParameters),
      (s.mode == .bch && notBinary s.arrays.g, .invalidParameters),
      (s.mode == .bch && notBinary s.dataSymbols, .operandRange) ])
    s fun s => succeed 0 s.encodeWord

end Sys2Proof.Machine
end

