-- ==== Sys2Proof/Machine/FieldEngine.lean ====
section
/-! DEFINITION. The field engine's commands (41_field.md). -/

namespace Sys2Proof.Machine

/-- `FSETM m` (R121). -/
def execFsetm (m : BitVec 24) (s : State) : Result :=
  attempt
    [ s.needUnlocked,
      (m.toNat < Config.mMin || Config.mMax < m.toNat, .invalidParameters) ]
    s fun s => succeed 0 (s.setField (m.setWidth 4) (defPoly m.toNat))

/-- `FSETP p` (R122): the value is not examined here. -/
def execFsetp (p : BitVec 13) (s : State) : Result :=
  attempt [s.needUnlocked] s fun s => succeed 0 (s.setPrim p)

/-- The effect of a successful `FINIT`: the tables of R124, and `FV <- 1` (R125). -/
def State.buildField (s : State) : State :=
  let exp := expTable s.m.toNat s.prim
  (s.setTables exp (logTable s.m.toNat exp)).setStatus { s.status with fv := true }

/-- `FINIT` (R125). -/
def execFinit (s : State) : Result :=
  attempt
    [ s.needUnlocked,
      (s.m.toNat < Config.mMin || Config.mMax < s.m.toNat, .invalidParameters),
      (!degreeIs s.m.toNat s.prim, .invalidParameters),
      (!alphaHasFullOrder s.m.toNat s.prim, .invalidParameters) ]
    s fun s => succeed 0 s.buildField

/-- `FADD a, b` (R132, R138). -/
def execFadd (a b : Cell) (s : State) : Result :=
  attempt [s.needField, s.needElement a, s.needElement b] s fun s => succeed (cellValue (gfAdd a b)) s

/-- `FMUL a, b` (R133, R138). -/
def execFmul (a b : Cell) (s : State) : Result :=
  attempt [s.needField, s.needElement a, s.needElement b] s fun s => succeed (cellValue (s.gf.mul a b)) s

/-- `FDIV a, b` (R134, R138): the divisor is tested before the dividend (R128). -/
def execFdiv (a b : Cell) (s : State) : Result :=
  attempt [s.needField, s.needElement a, s.needElement b, (b == 0, .divideByZero)]
    s fun s => succeed (cellValue (s.gf.quot a b)) s

/-- `FINV a` (R135, R138). -/
def execFinv (a : Cell) (s : State) : Result :=
  attempt [s.needField, s.needElement a, (a == 0, .divideByZero)] s fun s => succeed (cellValue (s.gf.inv a)) s

/-- `FPOW a, e` (R136, R138): only `a` is range-checked. -/
def execFpow (a : Cell) (e : BitVec 12) (s : State) : Result :=
  attempt [s.needField, s.needElement a] s fun s => succeed (cellValue (s.gf.pow a e.toNat)) s

/-- `FISPRIM a` (R137, R138). -/
def execFisprim (a : Cell) (s : State) : Result :=
  attempt [s.needField, s.needElement a] s fun s => succeed (flagValue (s.gf.isPrimitive a)) s

/-- `FEXP i` (R139, R138): `i` is no element and is not range-checked. -/
def execFexp (i : BitVec 12) (s : State) : Result :=
  attempt [s.needField] s fun s => succeed (cellValue (s.gf.alpha i.toNat)) s

/-- `FLOG a` (R140, R138). -/
def execFlog (a : Cell) (s : State) : Result :=
  attempt [s.needField, s.needElement a, (a == 0, .logOfZero)] s fun s => succeed (countValue (s.gf.logAt a)) s

end Sys2Proof.Machine
end

