-- ==== Sys2Proof/Machine/Polynomial.lean ====
section
/-! DEFINITION. Cell access and polynomial commands (42_polynomial.md sections 3 and 4). Sources are read from the state
before the command, so any aliasing of selectors is allowed (R159). -/

namespace Sys2Proof.Machine

/-- `PWR s, i, c` (R160). -/
def execPwr (sel : ArrSel) (i : BitVec 12) (c : Cell) (s : State) : Result :=
  attempt [s.needField, s.needElement c] s fun s => succeed 0 (s.setArr sel (Memory.put (s.arr sel) i.toNat c))

/-- `PRD s, i` (R161). -/
def execPrd (sel : ArrSel) (i : BitVec 12) (s : State) : Result :=
  attempt [s.needField] s fun s => succeed (cellValue (Memory.read (s.arr sel) i.toNat)) s

/-- `PCLR pd` (R162). -/
def execPclr (pd : ArrSel) (s : State) : Result :=
  attempt [s.needField] s fun s => succeed 0 (s.setArr pd [])

/-- `PMOV pd, pa` (R163). -/
def execPmov (pd pa : ArrSel) (s : State) : Result :=
  attempt [s.needField] s fun s => succeed 0 (s.setArr pd (s.arr pa))

/-- `PDEG pa` (R164). -/
def execPdeg (pa : ArrSel) (s : State) : Result :=
  attempt [s.needField] s fun s => succeed (countValue (polyDeg (s.arr pa))) s

/-- `PISZ pa` (R165). -/
def execPisz (pa : ArrSel) (s : State) : Result :=
  attempt [s.needField] s fun s => succeed (flagValue (polyIsZero (s.arr pa))) s

/-- `PADD pd, pa, pb` (R166). -/
def execPadd (pd pa pb : ArrSel) (s : State) : Result :=
  attempt [s.needField] s fun s => succeed 0 (s.setArr pd (polyAdd (s.arr pa) (s.arr pb)))

/-- The product of two arrays does not fit an array register (R167). -/
def productOverflows (a b : Memory) : Bool :=
  !polyIsZero a && !polyIsZero b && Config.plen - 1 < polyDeg a + polyDeg b

/-- `PMUL pd, pa, pb` (R167). -/
def execPmul (pd pa pb : ArrSel) (s : State) : Result :=
  attempt [s.needField, (productOverflows (s.arr pa) (s.arr pb), .overflow)]
    s fun s => succeed 0 (s.setArr pd (polyMul s.gf (s.arr pa) (s.arr pb)))

/-- `PDIVMOD pa, pb` (R168): the quotient goes to `QT` and the remainder to `RM`. -/
def execPdivmod (pa pb : ArrSel) (s : State) : Result :=
  attempt [s.needField, (polyIsZero (s.arr pb), .divideByZero)]
    s fun s =>
      let qr := polyDivmod s.gf (s.arr pa) (s.arr pb)
      succeed 0 ((s.setArr .qt qr.1).setArr .rm qr.2)

/-- `PEVAL pa, x` (R169). -/
def execPeval (pa : ArrSel) (x : Cell) (s : State) : Result :=
  attempt [s.needField, s.needElement x] s fun s => succeed (cellValue (polyEval s.gf (s.arr pa) x)) s

end Sys2Proof.Machine
end

