-- ==== Sys2Proof/Machine/System.lean ====
section
/-! DEFINITION. The system commands (40_system.md). They are legal in every state and raise nothing (R110). -/

namespace Sys2Proof.Machine

/-- `NOP` (R111): nothing changes, `RES` included; the response carries the unchanged `RES`. -/
def execNop (s : State) : Result := .next (s.respond (okWord s.res))

/-- `RESET` (R112): every piece of state takes its reset value; the response is 0. -/
def execReset (s : State) : Result := .next (s.resetCore.respond (okWord 0))

/-- `RDCSR c` (R113). -/
def execRdcsr (c : Csr) (s : State) : Result := succeed (s.csrValue c) s

end Sys2Proof.Machine
end

