-- ==== Sys2Proof/Machine/Dispatch.lean ====
section
/-! DEFINITION. One arm per command: its meaning. -/

namespace Sys2Proof.Machine

def exec (i : Instr) (s : State) : Host.Outcome State Fault Refusal :=
  match i with
  | .nop => Sys2Proof.Machine.execNop s
  | .reset => Sys2Proof.Machine.execReset s
  | .rdcsr c => Sys2Proof.Machine.execRdcsr c s
  | .fsetm m => Sys2Proof.Machine.execFsetm m s
  | .fsetp p => Sys2Proof.Machine.execFsetp p s
  | .finit => Sys2Proof.Machine.execFinit s
  | .fadd a b => Sys2Proof.Machine.execFadd a b s
  | .fmul a b => Sys2Proof.Machine.execFmul a b s
  | .fdiv a b => Sys2Proof.Machine.execFdiv a b s
  | .finv a => Sys2Proof.Machine.execFinv a s
  | .fpow a e => Sys2Proof.Machine.execFpow a e s
  | .fisprim a => Sys2Proof.Machine.execFisprim a s
  | .fexp idx => Sys2Proof.Machine.execFexp idx s
  | .flog a => Sys2Proof.Machine.execFlog a s
  | .pwr sel idx c => Sys2Proof.Machine.execPwr sel idx c s
  | .prd sel idx => Sys2Proof.Machine.execPrd sel idx s
  | .pclr pd => Sys2Proof.Machine.execPclr pd s
  | .pmov pd pa => Sys2Proof.Machine.execPmov pd pa s
  | .pdeg pa => Sys2Proof.Machine.execPdeg pa s
  | .pisz pa => Sys2Proof.Machine.execPisz pa s
  | .padd pd pa pb => Sys2Proof.Machine.execPadd pd pa pb s
  | .pmul pd pa pb => Sys2Proof.Machine.execPmul pd pa pb s
  | .pdivmod pa pb => Sys2Proof.Machine.execPdivmod pa pb s
  | .peval pa x => Sys2Proof.Machine.execPeval pa x s
  | .csetn n => Sys2Proof.Machine.execCsetn n s
  | .csett t => Sys2Proof.Machine.execCsett t s
  | .csetmode mode => Sys2Proof.Machine.execCsetmode mode s
  | .geng rho => Sys2Proof.Machine.execGeng rho s
  | .genb t => Sys2Proof.Machine.execGenb t s
  | .enc => Sys2Proof.Machine.execEnc s
  | .synd => Sys2Proof.Machine.execSynd s
  | .bma => Sys2Proof.Machine.execBma s
  | .chien => Sys2Proof.Machine.execChien s
  | .omega => Sys2Proof.Machine.execOmega s
  | .forney => Sys2Proof.Machine.execForney s
  | .correct => Sys2Proof.Machine.execCorrect s
  | .decode => Sys2Proof.Machine.execDecode s

end Sys2Proof.Machine
end

