-- ==== Sys2Proof/Machine/Step.lean ====
section
/-! DEFINITION. One step: the next host event is served, or the core idles (30_encoding.md R81, R82). -/

namespace Sys2Proof.Machine

/-- A command word: the command it decodes to, or the fault `IllegalCommand` (30_encoding.md R93, 60_exceptions.md R247). -/
def runWord (w : Word) (s : State) : Result :=
  match decode w with
  | .ok i => exec i s
  | .error _ => raise .illegalCommand s

/-- One step. With nothing offered the core is idle and waits (60_exceptions.md R265, assumption 3); a command word is
taken and run to completion (30_encoding.md R81); `rst` resets and answers nothing (70_reset_and_hazards.md R270, R271). -/
def step (s : State) : Host.Outcome State Fault Refusal :=
  match s.pending with
  | [] => .next s
  | .command w :: es => runWord w (s.setPending es)
  | .rst :: es => .next (s.setPending es).resetCore

/-- The state in which the next thing the host offers is the given command word, bits above `nbits` 0 (assumption 4). -/
def State.withFetchWord (s : State) (nbits w : Nat) : State :=
  s.setPending (.command (BitVec.ofNat 32 (w % 2 ^ nbits)) :: s.pending)

end Sys2Proof.Machine
end

