-- ==== Sys2Proof/Safety.lean ====
section
/-! DEFINITION. The terms the claims are written in: what a state looks like after a success or a fault, the invariant
of the core, the spec's conditions on the state, and transcriptions of its tables and loops on plain functions. -/

namespace Sys2Proof.Machine

/-! ### Words -/

/-- The word with `grp`, `fn`, `a` and `b` as numbers (30_encoding.md R83). -/
def wordOf (grp fn a b : Nat) : Word := BitVec.ofNat 32 (grp * 2 ^ 28 + fn * 2 ^ 24 + a * 2 ^ 12 + b)

/-- The word decodes to no command. -/
def IllegalWord (w : Word) : Prop := ∃ why, decode w = .error why

/-- The word is the command's: it decodes to it and it is its encoding (30_encoding.md R93). -/
def IsWordOf (w : Word) (i : Instr) : Prop := decode w = .ok i ∧ encode i = w

/-- Every word of the command's group and function with a nonzero immediate is illegal (30_encoding.md R97). -/
def ImmediateMustBeZero (grp fn : Nat) : Prop :=
  ∀ a b, a < 4096 → b < 4096 → ¬(a = 0 ∧ b = 0) → IllegalWord (wordOf grp fn a b)

/-- Every word of the command's group and function with a nonzero `b` is illegal (30_encoding.md R97). -/
def SecondFieldMustBeZero (grp fn : Nat) : Prop :=
  ∀ a b, a < 4096 → b < 4096 → b ≠ 0 → IllegalWord (wordOf grp fn a b)

/-- A response word's `err` field (30_encoding.md R84). -/
def errField (r : Word) : BitVec 4 := r.extractLsb' 28 4

/-- A response word's `val` field (30_encoding.md R84). -/
def valField (r : Word) : BitVec 16 := r.extractLsb' 0 16

/-! ### States after a command -/

/-- A field element, cell, degree or count as a value of `RES` (10_state.md R40). -/
def resultOf (k : Nat) : BitVec 16 := BitVec.ofNat 16 k

/-- The state after a command that succeeded with value `v` and wrote nothing else (10_state.md R40). -/
def State.answered (s : State) (v : BitVec 16) : State :=
  { s with res := v, responses := s.responses ++ [v.setWidth 32] }

/-- The state after a command that faulted with code `c` (60_exceptions.md R241). -/
def State.faulted (s : State) (c : BitVec 4) : State :=
  { s with
    lasterr := c
    esticky := s.esticky ||| (1 <<< c.toNat)
    responses := s.responses ++ [c.setWidth 32 <<< 28] }

/-- The state after a command, from the state before it. -/
def State.after (i : Instr) (s : State) : State :=
  match exec i s with
  | .next t => t
  | .fault _ | .refused _ => s

/-- `t` is `base` except in the listed array registers. -/
def KeepsBut (base t : State) (sels : List ArrSel) : Prop :=
  { t with arrays := base.arrays } = base ∧ ∀ sel, sel ∉ sels → t.arr sel = base.arr sel

/-! ### The spec's notation on plain functions -/

/-- An array register as a polynomial: coefficient `i` is cell `i` (10_state.md R32). -/
def State.coef (s : State) (sel : ArrSel) (i : Nat) : Cell := Memory.read (s.arr sel) i

/-- `ORD` (00_scope.md R11). -/
def State.ord (s : State) : Nat := 2 ^ s.m.toNat - 1

/-- The value is a field element: it is below 2^M (60_exceptions.md R248). -/
def State.isElement (s : State) (a : Cell) : Prop := a.toNat < 2 ^ s.m.toNat

/-- `EXP[i]` (10_state.md R26). -/
def State.expCell (s : State) (i : Nat) : Cell := s.exp.getD i 0

/-- `LOG[a]` (10_state.md R27). -/
def State.logCell (s : State) (a : Cell) : Nat := (s.log.getD a.toNat 0).toNat

/-- The XOR of `f 0 … f (n − 1)`. -/
def xorSum : Nat → (Nat → Cell) → Cell
  | 0, _ => 0
  | n + 1, f => xorSum n f ^^^ f n

/-- `deg(p)` (42_polynomial.md R151). -/
def IsDegree (p : Nat → Cell) (d : Nat) : Prop :=
  (p d ≠ 0 ∧ ∀ i, d < i → p i = 0) ∨ (d = 0 ∧ ∀ i, p i = 0)

/-- Coefficient `i` of the product of two polynomials (42_polynomial.md R155). -/
def mulCoef (F : GF) (p q : Nat → Cell) (i : Nat) : Cell := xorSum (i + 1) fun j => F.mul (p j) (q (i - j))

/-- Horner's loop over the indices below `k`, downwards (42_polynomial.md R156). -/
def hornerLoop (F : GF) (p : Nat → Cell) (x : Cell) : Nat → Cell → Cell
  | 0, acc => acc
  | k + 1, acc => hornerLoop F p x k (F.mul acc x ^^^ p k)

/-- Evaluation of the coefficients below `k` at `x` (42_polynomial.md R156, 44_decoder.md R201). -/
def horner (F : GF) (p : Nat → Cell) (k : Nat) (x : Cell) : Cell := hornerLoop F p x k 0

/-- The value of an array register at `x` (42_polynomial.md R156). -/
def State.valueAt (s : State) (sel : ArrSel) (x : Cell) : Cell := horner s.gf (s.coef sel) Config.plen x

/-- The coefficients of the derivative (42_polynomial.md R158). -/
def derivCoef (p : Nat → Cell) (i : Nat) : Cell := if i % 2 = 0 then p (i + 1) else 0

/-- The default polynomials (41_field.md R123). -/
def defaultPolys : List (Nat × BitVec 13) :=
  [(3, 0x0B), (4, 0x13), (5, 0x25), (6, 0x43), (7, 0x89), (8, 0x11D), (10, 0x409), (12, 0x1053)]

/-- Doubling modulo a polynomial of degree `m`, on numbers (41_field.md R124). -/
def doubleMod (m p v : Nat) : Nat := if (2 * v).testBit m then (2 * v) ^^^ p else 2 * v

/-- `seq[i]` of R124, `seq[0] = 1`. -/
def alphaPower (m p i : Nat) : Nat := (doubleMod m p)^[i] 1

/-- The product of two polynomials over GF(2) modulo `p`, by shift and add (41_field.md R127, R142). -/
def reducedProduct (m p a b : Nat) : Nat :=
  (List.range m).foldl (fun acc i => if b.testBit i then acc ^^^ (doubleMod m p)^[i] a else acc) 0

/-- `M` and `PRIM` pass every check of `FINIT` (41_field.md R125 checks 3 to 5). -/
def FieldAccepted (m p : Nat) : Prop :=
  3 ≤ m ∧ m ≤ 12 ∧ p / 2 ^ m = 1 ∧ (∀ i, 1 ≤ i → i < 2 ^ m - 1 → alphaPower m p i ≠ 1) ∧ alphaPower m p (2 ^ m - 1) = 1

/-- The variables of the Berlekamp-Massey loop, arrays as functions (44_decoder.md R204). -/
structure BmLoop where
  lam : Nat → Cell
  bp  : Nat → Cell
  l   : Nat
  pos : Nat
  bd  : Cell

/-- `[1]` as a function. -/
def oneCoef (i : Nat) : Cell := if i = 0 then 1 else 0

/-- The start of the loop (44_decoder.md R204). -/
def bmLoopStart : BmLoop := ⟨oneCoef, oneCoef, 0, 1, 1⟩

/-- The discrepancy of iteration `q` (44_decoder.md R204). -/
def bmDiscrepancy (F : GF) (syn : Nat → Cell) (v : BmLoop) (q : Nat) : Cell :=
  syn q ^^^ xorSum v.l fun k => if k + 1 ≤ q then F.mul (v.lam (k + 1)) (syn (q - (k + 1))) else 0

/-- One iteration, line by line (44_decoder.md R204). -/
def bmLoopStep (F : GF) (syn : Nat → Cell) (v : BmLoop) (q : Nat) : BmLoop :=
  let d := bmDiscrepancy F syn v q
  let c := F.quot d v.bd
  let lam := fun i => if v.pos ≤ i then v.lam i ^^^ F.mul c (v.bp (i - v.pos)) else v.lam i
  if d = 0 then { v with pos := v.pos + 1 }
  else if 2 * v.l ≤ q then ⟨lam, v.lam, q + 1 - v.l, 1, d⟩
  else { v with lam := lam, pos := v.pos + 1 }

/-- The first `k` iterations. -/
def bmLoopRun (F : GF) (syn : Nat → Cell) : Nat → BmLoop
  | 0 => bmLoopStart
  | k + 1 => bmLoopStep F syn (bmLoopRun F syn k) k

/-- The Forney denominator of listed error `j` (44_decoder.md R218). -/
def State.denominator (s : State) (j : Nat) : Cell :=
  horner s.gf (derivCoef (s.coef .lam)) Config.plen (s.gf.alphaNeg (s.coef .epos j).toNat)

/-- The Forney numerator of listed error `j` (44_decoder.md R218). -/
def State.numerator (s : State) (j : Nat) : Cell :=
  s.valueAt .omg (s.gf.alphaNeg (s.coef .epos j).toNat)

/-- Syndrome `S_(j+1)` of a word of `N` symbols (44_decoder.md R201). -/
def State.syndrome (s : State) (word : Nat → Cell) (j : Nat) : Cell :=
  horner s.gf word s.n.toNat (s.gf.alpha (j + 1))

/-- All `2T` syndromes of a word are 0 (44_decoder.md R203). -/
def State.InCode (s : State) (word : Nat → Cell) : Prop := ∀ j, j < 2 * s.t.toNat → s.syndrome word j = 0

/-- The set of exponents is closed under doubling modulo `ORD` and holds `1 … 2t` (43_generator_encoder.md R188). -/
def DoublingClosed (ord t : Nat) (C : List Nat) : Prop :=
  (∀ j, 1 ≤ j → j ≤ 2 * t → j ∈ C) ∧ ∀ j ∈ C, 2 * j % ord ∈ C

/-! ### Conditions on the state -/

/-- `GeomOK` holds (43_generator_encoder.md R184). -/
def State.GeomOK (s : State) : Prop :=
  s.status.fv = true ∧ s.n ≠ 0 ∧ (s.mode = .bch → s.n.toNat = s.ord)

/-- `DecOK` holds (43_generator_encoder.md R185). -/
def State.DecOK (s : State) : Prop := s.GeomOK ∧ s.t ≠ 0 ∧ 2 * s.t.toNat ≤ s.n.toNat - 1

/-- In BCH mode every symbol of the received word is a bit (44_decoder.md R202 check 3). -/
def State.BitsOK (s : State) : Prop := s.mode = .bch → ∀ i, i < s.n.toNat → (s.coef .cw i).toNat ≤ 1

/-- The checks of `ENC` on the configuration and the generator hold, with parity length `r`
(43_generator_encoder.md R191 checks 2 to 6). -/
def State.EncOK (s : State) (r : Nat) : Prop :=
  s.GeomOK ∧ IsDegree (s.coef .g) r ∧ 1 ≤ r ∧ r ≤ s.n.toNat - 1 ∧ (s.mode = .rs → s.n.toNat = s.ord) ∧
    (s.mode = .bch → ∀ i, (s.coef .g i).toNat ≤ 1)

/-- Where data symbol 0 stands in `CW` with parity length `r` (10_state.md R33). -/
def State.dataAt (s : State) (r : Nat) : Nat := if s.mode = .bch then r else 0

/-- Where parity symbol 0 stands in `CW` with parity length `r` (10_state.md R33). -/
def State.parityAt (s : State) (r : Nat) : Nat := if s.mode = .bch then 0 else s.n.toNat - r

/-- Some decoder failure condition holds (44_decoder.md R230). -/
def State.Failed (s : State) : Prop :=
  s.status.tmr = true ∨ s.status.rlm = true ∨ (s.mode = .rs ∧ s.status.fdz = true)

/-! ### The decoder as a sequence of phase commands -/

/-- The registers and flags `DECODE` clears first (44_decoder.md R231). -/
def State.cleared (s : State) : State :=
  { s with
    nroots := 0
    ecnt := 0
    arrays := { s.arrays with epos := [], eval := [] }
    status := { s.status with tmr := false, rlm := false, fdz := false, ok := false } }

/-- The phase commands in the contract order (44_decoder.md R200, 70_reset_and_hazards.md R275). -/
def State.phases (s : State) : State :=
  let s1 := s.after .synd
  if s1.status.sz then s1.after .correct
  else
    let s2 := (s1.after .bma).after .chien
    if s2.mode = .rs ∧ s2.status.tmr = false ∧ s2.status.rlm = false then
      ((s2.after .omega).after .forney).after .correct
    else s2.after .correct

/-! ### The invariant of the core -/

/-- Every array register is in canonical form. -/
def State.ArraysWf (s : State) : Prop := ∀ sel, Memory.wf (s.arr sel) = true

/-- The field is built: `FV = 1`, and the tables are those R124 builds from an accepted `M` and `PRIM`
(10_state.md R24). -/
def State.FieldReady (s : State) : Prop :=
  s.status.fv = true ∧ 3 ≤ s.m.toNat ∧ s.m.toNat ≤ 12 ∧ degreeIs s.m.toNat s.prim = true ∧
    alphaHasFullOrder s.m.toNat s.prim = true ∧ s.exp = expTable s.m.toNat s.prim ∧
    s.log = logTable s.m.toNat s.exp

/-- Every cell is a field element (10_state.md R31). -/
def State.CellsInField (s : State) : Prop := ∀ sel, ∀ c ∈ s.arr sel, s.isElement c

/-- With a field: it is built, every cell is an element, `N ≤ 2^M − 1`, `2T ≤ 2^M − 2`. Without one: every array is
zero and `N` and `T` are 0 (10_state.md R24, R31, R34, R35). -/
def State.FieldInv (s : State) : Prop :=
  (s.status.fv = true → s.FieldReady ∧ s.CellsInField ∧ s.n.toNat ≤ s.ord ∧ 2 * s.t.toNat ≤ s.ord - 1) ∧
  (s.status.fv = false → (∀ sel, s.arr sel = []) ∧ s.n = 0 ∧ s.t = 0)

/-- `LASTERR` is 0 or a kind that can be raised, and bits 0, 3 and 10 to 15 of `ESTICKY` are 0 (10_state.md R41,
60_exceptions.md R245). -/
def State.FaultRegsInv (s : State) : Prop :=
  s.lasterr.toNat ≤ 9 ∧ s.lasterr ≠ 3 ∧ s.esticky &&& 0xFC09 = 0

/-- The invariant. -/
def State.Inv (s : State) : Prop := s.ArraysWf ∧ s.FieldInv ∧ s.FaultRegsInv

/-! ### Who writes and who raises what -/

/-- The commands that need the field (60_exceptions.md R246). -/
def needsField : Instr → Bool
  | .nop | .reset | .rdcsr _ | .fsetm _ | .fsetp _ | .finit => false
  | .fadd _ _ | .fmul _ _ | .fdiv _ _ | .finv _ | .fpow _ _ | .fisprim _ | .fexp _ | .flog _ | .pwr _ _ _ | .prd _ _
  | .pclr _ | .pmov _ _ | .pdeg _ | .pisz _ | .padd _ _ _ | .pmul _ _ _ | .pdivmod _ _ | .peval _ _ | .csetn _
  | .csett _ | .csetmode _ | .geng _ | .genb _ | .enc | .synd | .bma | .chien | .omega | .forney | .correct
  | .decode => true

/-- The decoder commands (43_generator_encoder.md R185). -/
def decoderCommands : List Instr := [.synd, .bma, .chien, .omega, .forney, .correct, .decode]

/-- The codec commands, group 5 (30_encoding.md R87, R92). -/
def isCodec : Instr → Bool
  | .csetn _ | .csett _ | .csetmode _ | .geng _ | .genb _ | .enc | .synd | .bma | .chien | .omega | .forney | .correct
  | .decode => true
  | .nop | .reset | .rdcsr _ | .fsetm _ | .fsetp _ | .finit | .fadd _ _ | .fmul _ _ | .fdiv _ _ | .finv _ | .fpow _ _
  | .fisprim _ | .fexp _ | .flog _ | .pwr _ _ _ | .prd _ _ | .pclr _ | .pmov _ _ | .pdeg _ | .pisz _ | .padd _ _ _
  | .pmul _ _ _ | .pdivmod _ _ | .peval _ _ => false

/-- The codes of the kinds a decoded command can raise (60_exceptions.md R258 without its column I). -/
def mayRaise : Instr → List (BitVec 4)
  | .nop | .reset | .rdcsr _ => []
  | .fsetm _ => [9, 1]
  | .fsetp _ => [9]
  | .finit => [9, 1]
  | .fadd _ _ | .fmul _ _ | .fpow _ _ => [5, 6]
  | .fdiv _ _ | .finv _ => [5, 6, 2]
  | .fisprim _ => [5, 6]
  | .fexp _ => [5]
  | .flog _ => [5, 6, 8]
  | .pwr _ _ _ => [5, 6]
  | .prd _ _ | .pclr _ | .pmov _ _ | .pdeg _ | .pisz _ | .padd _ _ _ => [5]
  | .pmul _ _ _ => [5, 7]
  | .pdivmod _ _ => [5, 2]
  | .peval _ _ => [5, 6]
  | .csetn _ | .csett _ | .geng _ | .genb _ => [5, 1]
  | .csetmode _ => [5]
  | .enc | .synd | .decode => [5, 1, 6]
  | .bma | .chien | .omega | .forney | .correct => [5, 1]

/-- The array registers a command may write (20_memory.md R61). -/
def writesArrays : Instr → List ArrSel
  | .reset => [.cw, .g, .syn, .lam, .bp, .omg, .qt, .rm, .epos, .eval]
  | .pwr sel _ _ => [sel]
  | .pclr pd => [pd]
  | .pmov pd _ => [pd]
  | .padd pd _ _ => [pd]
  | .pmul pd _ _ => [pd]
  | .pdivmod _ _ => [.qt, .rm]
  | .geng _ => [.g]
  | .genb _ => [.g]
  | .enc => [.cw]
  | .synd => [.syn]
  | .bma => [.lam, .bp]
  | .chien => [.epos]
  | .omega => [.omg]
  | .forney => [.eval]
  | .correct => [.cw]
  | .decode => [.syn, .lam, .bp, .epos, .omg, .eval, .cw]
  | .nop | .rdcsr _ | .fsetm _ | .fsetp _ | .finit | .fadd _ _ | .fmul _ _ | .fdiv _ _ | .finv _ | .fpow _ _
  | .fisprim _ | .fexp _ | .flog _ | .prd _ _ | .pdeg _ | .pisz _ | .peval _ _ | .csetn _ | .csett _
  | .csetmode _ => []

end Sys2Proof.Machine
end

