-- ==== Sys2Proof/Certificates/Slice0/Obligations.lean ====
section
/-! DEFINITION. The statements for the provers: one `Prop` each, from the numbered rules of the spec. -/

open Sys2Proof Sys2Proof.Machine

/-! ### Encoding and the step -/

/-- Words written out in the spec's examples, and one word of each kind R97 makes illegal. A sanity statement. -/
def Obligations.WrittenWordsDecode : Prop :=
  decode 0x00000000 = .ok .nop ∧ decode 0x02001000 = .ok (.rdcsr .prim) ∧ decode 0x10000008 = .ok (.fsetm 8) ∧
  decode 0x1100011B = .ok (.fsetp 0x11B) ∧ decode 0x1500600C = .ok (.fdiv 6 12) ∧
  decode 0x20005001 = .ok (.pwr .cw 5 1) ∧ decode 0x30006000 = .ok (.prd .cw 6) ∧
  decode 0x44534000 = .ok (.padd .omg .lam .bp) ∧ decode 0x46034000 = .ok (.pdivmod .lam .bp) ∧
  decode 0x47030003 = .ok (.peval .lam 3) ∧ decode 0x5000000F = .ok (.csetn 15) ∧
  decode 0x52000001 = .ok (.csetmode .rs) ∧ decode 0x5C000000 = .ok .decode ∧
  decode 0x60000000 = .error .unassignedGroup ∧ decode 0x03000000 = .error .unassignedFunction ∧
  decode 0x2A000000 = .error .selectorAboveNine ∧ decode 0x0200D000 = .error .registerAboveTwelve ∧
  decode 0x52000002 = .error .reservedBitSet

/-- Decoding the word of any command, with any operands, gives the command back (30_encoding.md R83, R85, R88 to R92). -/
def Obligations.EncodedCommandsDecode : Prop := ∀ i : Instr, decode (encode i) = .ok i

/-- A word that decodes to a command is that command's only word: no bit of it is ignored (30_encoding.md R94, R95). -/
def Obligations.DecodedWordsEncodeBack : Prop := ∀ (w : Word) (i : Instr), decode w = .ok i → encode i = w

/-- R93: decoding by fields agrees with the opcode table's masks, matches and constraints; the rows are disjoint; a word
of no row is illegal, and an illegal word faults `IllegalCommand` (code 4) and changes nothing else. -/
def Obligations.DecodeFollowsOpcodeTable : Prop :=
  (∀ (w : Word), ∀ row ∈ opRows, row.accepts w = true ↔ ∃ i, decode w = .ok i ∧ i.mnemonic = row.mnemonic) ∧
  (∀ (w : Word), ∀ r ∈ opRows, ∀ r' ∈ opRows, r.accepts w = true → r'.accepts w = true → r = r') ∧
  (∀ w : Word, IllegalWord w ↔ ∀ row ∈ opRows, row.accepts w = false) ∧
  (∀ (w : Word) (i : Instr), decode w = .ok i ↔ encode i = w) ∧
  (∀ (w : Word) (s : State), IllegalWord w → runWord w s = .next (s.faulted 4))

/-- R97: exactly these words are illegal, by group, function and fields. `imm` is `a · 4096 + b`. -/
def Obligations.IllegalWordsAreTheListedOnes : Prop :=
  ∀ grp fn a b : Nat, grp < 16 → fn < 16 → a < 4096 → b < 4096 →
    (IllegalWord (wordOf grp fn a b) ↔
      6 ≤ grp ∨ (grp = 0 ∧ 3 ≤ fn) ∨ (grp = 1 ∧ 11 ≤ fn) ∨ (grp = 4 ∧ 8 ≤ fn) ∨ (grp = 5 ∧ 13 ≤ fn) ∨
      ((grp, fn) ∈ [(0, 0), (0, 1), (1, 2), (5, 5), (5, 6), (5, 7), (5, 8), (5, 9), (5, 10), (5, 11), (5, 12)] ∧
        a * 4096 + b ≠ 0) ∨
      ((grp, fn) = (0, 2) ∧ (13 ≤ a ∨ b ≠ 0)) ∨
      ((grp, fn) = (1, 1) ∧ 8192 ≤ a * 4096 + b) ∨
      ((grp, fn) ∈ [(1, 6), (1, 8), (1, 9), (1, 10), (5, 3), (5, 4)] ∧ b ≠ 0) ∨
      (grp = 2 ∧ 10 ≤ fn) ∨
      (grp = 3 ∧ (10 ≤ fn ∨ b ≠ 0)) ∨
      ((grp, fn) = (4, 0) ∧ (10 ≤ a / 256 ∨ a % 256 ≠ 0 ∨ b ≠ 0)) ∨
      ((grp, fn) = (4, 1) ∧ (10 ≤ a / 256 ∨ 10 ≤ a / 16 % 16 ∨ a % 16 ≠ 0 ∨ b ≠ 0)) ∨
      ((grp, fn) ∈ [(4, 2), (4, 3)] ∧ (a / 256 ≠ 0 ∨ 10 ≤ a / 16 % 16 ∨ a % 16 ≠ 0 ∨ b ≠ 0)) ∨
      ((grp, fn) ∈ [(4, 4), (4, 5)] ∧ (10 ≤ a / 256 ∨ 10 ≤ a / 16 % 16 ∨ 10 ≤ a % 16 ∨ b ≠ 0)) ∨
      ((grp, fn) = (4, 6) ∧ (a / 256 ≠ 0 ∨ 10 ≤ a / 16 % 16 ∨ 10 ≤ a % 16 ∨ b ≠ 0)) ∨
      ((grp, fn) = (4, 7) ∧ (a / 256 ≠ 0 ∨ 10 ≤ a / 16 % 16 ∨ a % 16 ≠ 0)) ∨
      ((grp, fn) ∈ [(5, 0), (5, 1)] ∧ 4096 ≤ a * 4096 + b) ∨
      ((grp, fn) = (5, 2) ∧ 2 ≤ a * 4096 + b))

/-- A step takes the next word offered and runs the command it decodes to, or faults `IllegalCommand`
(30_encoding.md R81, R93); a word placed at the head of what is offered is the one that runs. -/
def Obligations.StepRunsDecodedCommand : Prop :=
  (∀ (s : State) (w : Word) (es : List HostEvent) (i : Instr),
    s.pending = .command w :: es → decode w = .ok i → step s = exec i { s with pending := es }) ∧
  (∀ (s : State) (w : Word) (es : List HostEvent),
    s.pending = .command w :: es → IllegalWord w →
      step s = .next (({ s with pending := es } : State).faulted 4)) ∧
  (∀ (s : State) (i : Instr), step (s.withFetchWord 32 (encode i).toNat) = exec i s)

/-- With nothing offered the core waits, and `rst` puts the core in the reset state and presents no response
(60_exceptions.md R265, 70_reset_and_hazards.md R270, R271). That an idle step leaves the state as it is and that the
port streams survive a reset are the model's choices (assumptions 3 and 5). -/
def Obligations.IdleAndResetInput : Prop :=
  (∀ s : State, s.pending = [] → step s = .next s) ∧
  (∀ (s : State) (es : List HostEvent),
    s.pending = .rst :: es → step s = .next { State.reset with pending := es, responses := s.responses })

/-- R84, with R82's totality: every word, legal or not, ends in a next state with exactly one response word more. Its
`err` is 0 or a fault code (never 3, never above 9), its bits 27 to 16 are 0, and its `val` is `RES` after a success
and 0 after a fault. -/
def Obligations.EveryWordAnswersOneResponse : Prop :=
  ∀ (w : Word) (s : State), ∃ (t : State) (r : Word),
    runWord w s = .next t ∧ t.responses = s.responses ++ [r] ∧ t.pending = s.pending ∧
    r.extractLsb' 16 12 = 0 ∧ errField r ≠ 3 ∧ (errField r).toNat ≤ 9 ∧
    (errField r = 0 → valField r = t.res) ∧ (errField r ≠ 0 → valField r = 0 ∧ t = s.faulted (errField r)) ∧
    (errField r = 0 → (∃ i, decode w = .ok i ∧ i = .reset) ∨ (t.lasterr = s.lasterr ∧ t.esticky = s.esticky))

/-- R241: a command that answers a fault code has written `LASTERR` and one bit of `ESTICKY`, has answered the code times
2^28, and has changed nothing else. The listed fields are all of the state. -/
def Obligations.FaultsArePrecise : Prop :=
  ∀ (w r : Word) (s t : State), runWord w s = .next t → t.responses = s.responses ++ [r] → errField r ≠ 0 →
    t.lasterr = errField r ∧
    (∀ k, t.esticky.getLsbD k = (s.esticky.getLsbD k || k == (errField r).toNat)) ∧
    r.toNat = (errField r).toNat * 2 ^ 28 ∧
    { t with lasterr := s.lasterr, esticky := s.esticky, responses := s.responses } = s

/-! ### System commands -/

/-- R111. -/
def Obligations.NopRule : Prop :=
  IsWordOf 0x00000000 .nop ∧ ImmediateMustBeZero 0 0 ∧
  ∀ s : State, exec .nop s = .next { s with responses := s.responses ++ [s.res.setWidth 32] }

/-- R112: `RESET` gives every piece of state its reset value and answers 0; it does what `rst` does, but for the response;
and no other command clears `FV`, `LASTERR` or a bit of `ESTICKY`. -/
def Obligations.ResetRule : Prop :=
  IsWordOf 0x01000000 .reset ∧ ImmediateMustBeZero 0 1 ∧
  (∀ s : State,
    exec .reset s = .next { State.reset with pending := s.pending, responses := s.responses ++ [0x00000000] }) ∧
  (∀ (s t : State) (es : List HostEvent), s.pending = .rst :: es → step s = .next t →
    exec .reset { s with pending := es } = .next { t with responses := s.responses ++ [0x00000000] }) ∧
  (∀ (i : Instr) (s t : State), i ≠ .reset → exec i s = .next t →
    (s.status.fv = true → t.status.fv = true) ∧ (s.lasterr ≠ 0 → t.lasterr ≠ 0) ∧
    ∀ k, s.esticky.getLsbD k = true → t.esticky.getLsbD k = true)

/-- R113, register by register (R42), with `STATUS` laid out as R39 says. -/
def Obligations.RdcsrRule : Prop :=
  (∀ c : Csr, IsWordOf (BitVec.ofNat 32 (0x02000000 + c.number.toNat * 4096)) (.rdcsr c)) ∧
  (∀ a b, a < 4096 → b < 4096 → b ≠ 0 ∨ 13 ≤ a → IllegalWord (wordOf 0 2 a b)) ∧
  ∀ s : State,
    exec (.rdcsr .m) s = .next (s.answered (s.m.setWidth 16)) ∧
    exec (.rdcsr .prim) s = .next (s.answered (s.prim.setWidth 16)) ∧
    exec (.rdcsr .n) s = .next (s.answered (s.n.setWidth 16)) ∧
    exec (.rdcsr .t) s = .next (s.answered (s.t.setWidth 16)) ∧
    exec (.rdcsr .mode) s = .next (s.answered (if s.mode = .bch then 0 else 1)) ∧
    exec (.rdcsr .status) s = .next (s.answered (resultOf
      (s.status.fv.toNat + 2 * s.status.sz.toNat + 4 * s.status.ok.toNat + 8 * s.status.tmr.toNat
        + 16 * s.status.rlm.toNat + 32 * s.status.fdz.toNat))) ∧
    exec (.rdcsr .l) s = .next (s.answered (s.l.setWidth 16)) ∧
    exec (.rdcsr .pos) s = .next (s.answered (s.pos.setWidth 16)) ∧
    exec (.rdcsr .bd) s = .next (s.answered (s.bd.setWidth 16)) ∧
    exec (.rdcsr .nroots) s = .next (s.answered (s.nroots.setWidth 16)) ∧
    exec (.rdcsr .ecnt) s = .next (s.answered (s.ecnt.setWidth 16)) ∧
    exec (.rdcsr .lasterr) s = .next (s.answered (s.lasterr.setWidth 16)) ∧
    exec (.rdcsr .esticky) s = .next (s.answered s.esticky)

/-- R43: what the spec gives every piece of state after reset, by `RESET` or by `rst` (the tables have no observable cell
then). -/
def Obligations.ResetValues : Prop :=
  State.reset.m = 0 ∧ State.reset.prim = 0 ∧ State.reset.n = 0 ∧ State.reset.t = 0 ∧ State.reset.mode.bit = 0 ∧
  State.reset.status.value = 0 ∧ (∀ sel i, State.reset.coef sel i = 0) ∧
  State.reset.l = 0 ∧ State.reset.pos = 0 ∧ State.reset.bd = 0 ∧ State.reset.nroots = 0 ∧ State.reset.ecnt = 0 ∧
  State.reset.res = 0 ∧ State.reset.lasterr = 0 ∧ State.reset.esticky = 0 ∧
  (∀ s : State, ∃ t, exec .reset s = .next t ∧ { t with pending := [], responses := [] } = State.reset) ∧
  (∀ (s : State) (es : List HostEvent), s.pending = .rst :: es →
    ∃ t, step s = .next t ∧ { t with pending := [], responses := [] } = State.reset)

/-! ### Field engine -/

/-- R121 (with the default polynomials of R123) and R122. -/
def Obligations.FieldSettersRule : Prop :=
  (∀ m : BitVec 24, IsWordOf (BitVec.ofNat 32 (0x10000000 + m.toNat)) (.fsetm m)) ∧
  (∀ (m : BitVec 24) (s : State), s.status.fv = true → exec (.fsetm m) s = .next (s.faulted 9)) ∧
  (∀ (m : BitVec 24) (s : State), s.status.fv = false → m.toNat < 3 ∨ 12 < m.toNat →
    exec (.fsetm m) s = .next (s.faulted 1)) ∧
  (∀ (m : BitVec 24) (p : BitVec 13) (s : State), s.status.fv = false → (m.toNat, p) ∈ defaultPolys →
    exec (.fsetm m) s = .next (({ s with m := BitVec.ofNat 4 m.toNat, prim := p } : State).answered 0)) ∧
  (∀ (m : BitVec 24) (s : State), s.status.fv = false → m.toNat = 9 ∨ m.toNat = 11 →
    exec (.fsetm m) s = .next (({ s with m := BitVec.ofNat 4 m.toNat, prim := 0 } : State).answered 0) ∧
    exec .finit (s.after (.fsetm m)) = .next ((s.after (.fsetm m)).faulted 1)) ∧
  (∀ p : BitVec 13, IsWordOf (BitVec.ofNat 32 (0x11000000 + p.toNat)) (.fsetp p)) ∧
  (∀ a b, a < 4096 → b < 4096 → 8192 ≤ a * 4096 + b → IllegalWord (wordOf 1 1 a b)) ∧
  (∀ (p : BitVec 13) (s : State), s.status.fv = true → exec (.fsetp p) s = .next (s.faulted 9)) ∧
  (∀ (p : BitVec 13) (s : State), s.status.fv = false →
    exec (.fsetp p) s = .next (({ s with prim := p } : State).answered 0))

/-- R124 and R125: a locked field faults; a configuration that fails any check of R125 faults and leaves `FV` 0; otherwise
the tables hold the powers of α and their logarithms. All eight default polynomials pass (R123), a polynomial with bit 0
clear fails, and 0x11B fails for M = 8 because α^51 is 1. -/
def Obligations.FinitRule : Prop :=
  IsWordOf 0x12000000 .finit ∧ ImmediateMustBeZero 1 2 ∧
  (∀ s : State, s.status.fv = true → exec .finit s = .next (s.faulted 9)) ∧
  (∀ s : State, s.status.fv = false → ¬FieldAccepted s.m.toNat s.prim.toNat →
    exec .finit s = .next (s.faulted 1)) ∧
  (∀ s : State, s.status.fv = false → FieldAccepted s.m.toNat s.prim.toNat → ∃ e l : List Cell,
    exec .finit s =
      .next (({ s with exp := e, log := l, status := { s.status with fv := true } } : State).answered 0) ∧
    (∀ i, alphaPower s.m.toNat s.prim.toNat i < 2 ^ s.m.toNat) ∧
    (∀ i, i < s.ord → (e.getD i 0).toNat = alphaPower s.m.toNat s.prim.toNat i) ∧
    (∀ i, i < s.ord → (l.getD (e.getD i 0).toNat 0).toNat = i) ∧ l.getD 0 0 = 0) ∧
  (∀ d ∈ defaultPolys, FieldAccepted d.1 d.2.toNat) ∧
  (∀ m p : Nat, p % 2 = 0 → ¬FieldAccepted m p) ∧
  alphaPower 8 0x11B 51 = 1 ∧ ¬FieldAccepted 8 0x11B

/-- R126, R127, R132 and R133, with the common checks of R138. -/
def Obligations.FaddFmulRule : Prop :=
  (∀ a b : Cell, IsWordOf (BitVec.ofNat 32 (0x13000000 + a.toNat * 4096 + b.toNat)) (.fadd a b) ∧
    IsWordOf (BitVec.ofNat 32 (0x14000000 + a.toNat * 4096 + b.toNat)) (.fmul a b)) ∧
  (∀ (a b : Cell) (s : State), s.status.fv = false →
    exec (.fadd a b) s = .next (s.faulted 5) ∧ exec (.fmul a b) s = .next (s.faulted 5)) ∧
  (∀ (a b : Cell) (s : State), s.status.fv = true → ¬s.isElement a ∨ ¬s.isElement b →
    exec (.fadd a b) s = .next (s.faulted 6) ∧ exec (.fmul a b) s = .next (s.faulted 6)) ∧
  (∀ (a b : Cell) (s : State), s.status.fv = true → s.isElement a → s.isElement b →
    exec (.fadd a b) s = .next (s.answered (resultOf (a ^^^ b).toNat)) ∧
    exec (.fmul a b) s = .next (s.answered (resultOf
      (if a = 0 ∨ b = 0 then 0 else s.expCell ((s.logCell a + s.logCell b) % s.ord)).toNat))) ∧
  (∀ (a : Cell) (s : State), s.Inv → s.status.fv = true → s.isElement a →
    exec (.fadd a a) s = .next (s.answered 0) ∧ exec (.fadd a 0) s = .next (s.answered (resultOf a.toNat)) ∧
    exec (.fmul a 1) s = .next (s.answered (resultOf a.toNat)))

/-- R128, R129, R134 and R135, with the common checks of R138: the divisor is tested before the dividend. -/
def Obligations.FdivFinvRule : Prop :=
  (∀ a b : Cell, IsWordOf (BitVec.ofNat 32 (0x15000000 + a.toNat * 4096 + b.toNat)) (.fdiv a b) ∧
    IsWordOf (BitVec.ofNat 32 (0x16000000 + a.toNat * 4096)) (.finv a)) ∧
  SecondFieldMustBeZero 1 6 ∧
  (∀ (a b : Cell) (s : State), s.status.fv = false →
    exec (.fdiv a b) s = .next (s.faulted 5) ∧ exec (.finv a) s = .next (s.faulted 5)) ∧
  (∀ (a b : Cell) (s : State), s.status.fv = true → ¬s.isElement a ∨ ¬s.isElement b →
    exec (.fdiv a b) s = .next (s.faulted 6)) ∧
  (∀ (a : Cell) (s : State), s.status.fv = true → ¬s.isElement a → exec (.finv a) s = .next (s.faulted 6)) ∧
  (∀ (a : Cell) (s : State), s.status.fv = true → s.isElement a →
    exec (.fdiv a 0) s = .next (s.faulted 2) ∧ exec (.finv 0) s = .next (s.faulted 2)) ∧
  (∀ (a b : Cell) (s : State), s.status.fv = true → s.isElement a → s.isElement b → b ≠ 0 →
    exec (.fdiv a b) s = .next (s.answered (resultOf
      (if a = 0 then 0 else s.expCell ((s.logCell a + s.ord - s.logCell b) % s.ord)).toNat))) ∧
  (∀ (a : Cell) (s : State), s.status.fv = true → s.isElement a → a ≠ 0 →
    exec (.finv a) s = .next (s.answered (resultOf (s.expCell ((s.ord - s.logCell a) % s.ord)).toNat))) ∧
  (∀ (a : Cell) (s : State), s.Inv → s.status.fv = true → s.isElement a → a ≠ 0 →
    exec (.fdiv a a) s = .next (s.answered 1) ∧ exec (.finv 1) s = .next (s.answered 1))

/-- R130, R136 and R139: powers and powers of α. Exponents and indices are not range-checked. -/
def Obligations.FpowFexpRule : Prop :=
  (∀ a e : Cell, IsWordOf (BitVec.ofNat 32 (0x17000000 + a.toNat * 4096 + e.toNat)) (.fpow a e) ∧
    IsWordOf (BitVec.ofNat 32 (0x19000000 + e.toNat * 4096)) (.fexp e)) ∧
  SecondFieldMustBeZero 1 9 ∧
  (∀ (a e : Cell) (s : State), s.status.fv = false →
    exec (.fpow a e) s = .next (s.faulted 5) ∧ exec (.fexp e) s = .next (s.faulted 5)) ∧
  (∀ (a e : Cell) (s : State), s.status.fv = true → ¬s.isElement a → exec (.fpow a e) s = .next (s.faulted 6)) ∧
  (∀ (a e : Cell) (s : State), s.status.fv = true → s.isElement a →
    exec (.fpow a e) s = .next (s.answered (resultOf
      (if a = 0 then (if e = 0 then 1 else 0) else s.expCell (s.logCell a * e.toNat % s.ord)).toNat))) ∧
  (∀ (i : Cell) (s : State), s.status.fv = true →
    exec (.fexp i) s = .next (s.answered (resultOf (s.expCell (i.toNat % s.ord)).toNat))) ∧
  (∀ (a e e' : Cell) (s : State), a ≠ 0 → e.toNat % s.ord = e'.toNat % s.ord →
    exec (.fpow a e) s = exec (.fpow a e') s) ∧
  (∀ (a i : Cell) (s : State), s.Inv → s.status.fv = true → s.isElement a → i.toNat = s.ord →
    exec (.fpow a 0) s = .next (s.answered 1) ∧ exec (.fexp 0) s = .next (s.answered 1) ∧
    exec (.fexp i) s = .next (s.answered 1))

/-- R131 and R137: the answer is 1 exactly when the least exponent from 1 on at which the power of `a` is 1 is
2^M − 1. Once the field is built 2 is primitive, and 1 and 0 are not. -/
def Obligations.FisprimRule : Prop :=
  (∀ a : Cell, IsWordOf (BitVec.ofNat 32 (0x18000000 + a.toNat * 4096)) (.fisprim a)) ∧
  SecondFieldMustBeZero 1 8 ∧
  (∀ (a : Cell) (s : State), s.status.fv = false → exec (.fisprim a) s = .next (s.faulted 5)) ∧
  (∀ (a : Cell) (s : State), s.status.fv = true → ¬s.isElement a → exec (.fisprim a) s = .next (s.faulted 6)) ∧
  (∀ (a : Cell) (s : State), s.status.fv = true → s.isElement a →
    (a ≠ 0 ∧ IsLeast { e : Nat | 1 ≤ e ∧ s.gf.pow a e = 1 } s.ord → exec (.fisprim a) s = .next (s.answered 1)) ∧
    (¬(a ≠ 0 ∧ IsLeast { e : Nat | 1 ≤ e ∧ s.gf.pow a e = 1 } s.ord) →
      exec (.fisprim a) s = .next (s.answered 0))) ∧
  (∀ s : State, s.Inv → s.status.fv = true →
    exec (.fisprim 2) s = .next (s.answered 1) ∧ exec (.fisprim 1) s = .next (s.answered 0) ∧
    exec (.fisprim 0) s = .next (s.answered 0))

/-- R140. -/
def Obligations.FlogRule : Prop :=
  (∀ a : Cell, IsWordOf (BitVec.ofNat 32 (0x1A000000 + a.toNat * 4096)) (.flog a)) ∧
  SecondFieldMustBeZero 1 10 ∧
  (∀ (a : Cell) (s : State), s.status.fv = false → exec (.flog a) s = .next (s.faulted 5)) ∧
  (∀ (a : Cell) (s : State), s.status.fv = true → ¬s.isElement a → exec (.flog a) s = .next (s.faulted 6)) ∧
  (∀ s : State, s.status.fv = true → exec (.flog 0) s = .next (s.faulted 8)) ∧
  (∀ (a : Cell) (s : State), s.status.fv = true → s.isElement a → a ≠ 0 →
    exec (.flog a) s = .next (s.answered (resultOf (s.logCell a)))) ∧
  (∀ s : State, s.Inv → s.status.fv = true → exec (.flog 1) s = .next (s.answered 0))

/-- R28: the table invariants, in every state of the invariant with `FV = 1`. -/
def Obligations.TablesInvertEachOther : Prop :=
  ∀ s : State, s.Inv → s.status.fv = true →
    s.expCell 0 = 1 ∧ s.expCell 1 = 2 ∧
    (∀ i j, i < s.ord → j < s.ord → s.expCell i = s.expCell j → i = j) ∧
    (∀ i, i < s.ord → s.expCell i ≠ 0 ∧ s.isElement (s.expCell i)) ∧
    (∀ a : Cell, s.isElement a → a ≠ 0 → s.logCell a < s.ord ∧ s.expCell (s.logCell a) = a) ∧
    (∀ i, i < s.ord → s.logCell (s.expCell i) = i)

/-- R141: the field laws for all elements, zero included, which the spec derives; and R131's reading of primitivity as
coprimality of the logarithm, which the spec takes from general knowledge. -/
def Obligations.FieldLaws : Prop :=
  ∀ (s : State) (a b c : Cell), s.Inv → s.status.fv = true → s.isElement a → s.isElement b → s.isElement c →
    s.gf.mul a b = s.gf.mul b a ∧
    s.gf.mul (s.gf.mul a b) c = s.gf.mul a (s.gf.mul b c) ∧
    gfAdd a 0 = a ∧ s.gf.mul a 1 = a ∧ gfAdd a a = 0 ∧
    (a ≠ 0 → s.gf.mul a (s.gf.inv a) = 1) ∧
    s.gf.mul a (gfAdd b c) = gfAdd (s.gf.mul a b) (s.gf.mul a c) ∧
    IsLeast { e : Nat | 1 ≤ e ∧ s.gf.pow 2 e = 1 } s.ord ∧
    (b ≠ 0 → s.gf.quot a b = s.gf.mul a (s.gf.inv b)) ∧
    (∀ e, s.gf.pow a (e + 1) = s.gf.mul (s.gf.pow a e) a) ∧
    (a ≠ 0 → s.gf.pow a s.ord = 1) ∧
    (a ≠ 0 → (IsLeast { e : Nat | 1 ≤ e ∧ s.gf.pow a e = 1 } s.ord ↔ Nat.gcd (s.logCell a) s.ord = 1))

/-- R127: the product by the tables is the product of the two polynomials reduced modulo `PRIM`, by shift and add, as the
spec derives. -/
def Obligations.MulIsReducedProduct : Prop :=
  ∀ (s : State) (a b : Cell), s.Inv → s.status.fv = true → s.isElement a → s.isElement b →
    s.gf.mul a b = (if a = 0 ∨ b = 0 then 0 else s.expCell ((s.logCell a + s.logCell b) % s.ord)) ∧
    (s.gf.mul a b).toNat = reducedProduct s.m.toNat s.prim.toNat a.toNat b.toNat

/-! ### Polynomial commands -/

/-- R160 and R161: one cell is written or read; with R159's checks. -/
def Obligations.CellAccessRule : Prop :=
  (∀ (sel : ArrSel) (i c : Cell),
    IsWordOf (BitVec.ofNat 32 (0x20000000 + sel.number.toNat * 2 ^ 24 + i.toNat * 4096 + c.toNat)) (.pwr sel i c) ∧
    IsWordOf (BitVec.ofNat 32 (0x30000000 + sel.number.toNat * 2 ^ 24 + i.toNat * 4096)) (.prd sel i)) ∧
  (∀ sel a b, 10 ≤ sel → sel < 16 → a < 4096 → b < 4096 →
    IllegalWord (wordOf 2 sel a b) ∧ IllegalWord (wordOf 3 sel a b)) ∧
  (∀ sel, sel < 10 → SecondFieldMustBeZero 3 sel) ∧
  (∀ (sel : ArrSel) (i c : Cell) (s : State), s.status.fv = false →
    exec (.pwr sel i c) s = .next (s.faulted 5) ∧ exec (.prd sel i) s = .next (s.faulted 5)) ∧
  (∀ (sel : ArrSel) (i c : Cell) (s : State), s.status.fv = true → ¬s.isElement c →
    exec (.pwr sel i c) s = .next (s.faulted 6)) ∧
  (∀ (sel : ArrSel) (i c : Cell) (s : State), s.status.fv = true → s.isElement c →
    ∃ t, exec (.pwr sel i c) s = .next t ∧ KeepsBut (s.answered 0) t [sel] ∧
      ∀ j, j < 4096 → t.coef sel j = if j = i.toNat then c else s.coef sel j) ∧
  (∀ (sel : ArrSel) (i : Cell) (s : State), s.status.fv = true →
    exec (.prd sel i) s = .next (s.answered (resultOf (s.coef sel i.toNat).toNat)))

/-- R162 and R163; `PMOV` of an array register to itself changes no cell. -/
def Obligations.PclrPmovRule : Prop :=
  (∀ pd pa : ArrSel, IsWordOf (BitVec.ofNat 32 (0x40000000 + pd.number.toNat * 2 ^ 20)) (.pclr pd) ∧
    IsWordOf (BitVec.ofNat 32 (0x41000000 + pd.number.toNat * 2 ^ 20 + pa.number.toNat * 2 ^ 16)) (.pmov pd pa)) ∧
  (∀ a b, a < 4096 → b < 4096 → 10 ≤ a / 256 ∨ a % 256 ≠ 0 ∨ b ≠ 0 → IllegalWord (wordOf 4 0 a b)) ∧
  (∀ a b, a < 4096 → b < 4096 → 10 ≤ a / 256 ∨ 10 ≤ a / 16 % 16 ∨ a % 16 ≠ 0 ∨ b ≠ 0 →
    IllegalWord (wordOf 4 1 a b)) ∧
  (∀ (pd pa : ArrSel) (s : State), s.status.fv = false →
    exec (.pclr pd) s = .next (s.faulted 5) ∧ exec (.pmov pd pa) s = .next (s.faulted 5)) ∧
  (∀ (pd : ArrSel) (s : State), s.status.fv = true →
    ∃ t, exec (.pclr pd) s = .next t ∧ KeepsBut (s.answered 0) t [pd] ∧ ∀ j, j < 4096 → t.coef pd j = 0) ∧
  (∀ (pd pa : ArrSel) (s : State), s.status.fv = true →
    ∃ t, exec (.pmov pd pa) s = .next t ∧ KeepsBut (s.answered 0) t [pd] ∧
      ∀ j, j < 4096 → t.coef pd j = s.coef pa j)

/-- R151, R152, R164 and R165: the degree and the zero test. -/
def Obligations.PdegPiszRule : Prop :=
  (∀ pa : ArrSel, IsWordOf (BitVec.ofNat 32 (0x42000000 + pa.number.toNat * 2 ^ 16)) (.pdeg pa) ∧
    IsWordOf (BitVec.ofNat 32 (0x43000000 + pa.number.toNat * 2 ^ 16)) (.pisz pa)) ∧
  (∀ fn a b, fn = 2 ∨ fn = 3 → a < 4096 → b < 4096 → a / 256 ≠ 0 ∨ 10 ≤ a / 16 % 16 ∨ a % 16 ≠ 0 ∨ b ≠ 0 →
    IllegalWord (wordOf 4 fn a b)) ∧
  (∀ (pa : ArrSel) (s : State), s.status.fv = false →
    exec (.pdeg pa) s = .next (s.faulted 5) ∧ exec (.pisz pa) s = .next (s.faulted 5)) ∧
  (∀ (pa : ArrSel) (s : State), s.ArraysWf → s.status.fv = true →
    ∃ d, IsDegree (s.coef pa) d ∧ d < 4096 ∧ exec (.pdeg pa) s = .next (s.answered (resultOf d))) ∧
  (∀ (pa : ArrSel) (s : State), s.status.fv = true →
    ((∀ i, s.coef pa i = 0) → exec (.pisz pa) s = .next (s.answered 1)) ∧
    (¬(∀ i, s.coef pa i = 0) → exec (.pisz pa) s = .next (s.answered 0)))

/-- R154 and R166; adding an array register to itself clears it. -/
def Obligations.PaddRule : Prop :=
  (∀ pd pa pb : ArrSel, IsWordOf (BitVec.ofNat 32
    (0x44000000 + pd.number.toNat * 2 ^ 20 + pa.number.toNat * 2 ^ 16 + pb.number.toNat * 2 ^ 12)) (.padd pd pa pb)) ∧
  (∀ a b, a < 4096 → b < 4096 → 10 ≤ a / 256 ∨ 10 ≤ a / 16 % 16 ∨ 10 ≤ a % 16 ∨ b ≠ 0 →
    IllegalWord (wordOf 4 4 a b)) ∧
  (∀ (pd pa pb : ArrSel) (s : State), s.status.fv = false → exec (.padd pd pa pb) s = .next (s.faulted 5)) ∧
  (∀ (pd pa pb : ArrSel) (s : State), s.status.fv = true →
    ∃ t, exec (.padd pd pa pb) s = .next t ∧ KeepsBut (s.answered 0) t [pd] ∧
      ∀ j, j < 4096 → t.coef pd j = s.coef pa j ^^^ s.coef pb j) ∧
  (∀ (sel : ArrSel) (s : State), s.status.fv = true →
    ∃ t, exec (.padd sel sel sel) s = .next t ∧ ∀ j, t.coef sel j = 0)

/-- R155 and R167: overflow exactly when neither source is zero and the degrees add up to more than 4095; otherwise the
convolution, whose degree is the sum of the degrees. -/
def Obligations.PmulRule : Prop :=
  (∀ pd pa pb : ArrSel, IsWordOf (BitVec.ofNat 32
    (0x45000000 + pd.number.toNat * 2 ^ 20 + pa.number.toNat * 2 ^ 16 + pb.number.toNat * 2 ^ 12)) (.pmul pd pa pb)) ∧
  (∀ a b, a < 4096 → b < 4096 → 10 ≤ a / 256 ∨ 10 ≤ a / 16 % 16 ∨ 10 ≤ a % 16 ∨ b ≠ 0 →
    IllegalWord (wordOf 4 5 a b)) ∧
  (∀ (pd pa pb : ArrSel) (s : State), s.status.fv = false → exec (.pmul pd pa pb) s = .next (s.faulted 5)) ∧
  (∀ (pd pa pb : ArrSel) (s : State) (da db : Nat), s.status.fv = true →
    IsDegree (s.coef pa) da → IsDegree (s.coef pb) db → s.coef pa da ≠ 0 → s.coef pb db ≠ 0 → 4095 < da + db →
    exec (.pmul pd pa pb) s = .next (s.faulted 7)) ∧
  (∀ (pd pa pb : ArrSel) (s : State) (da db : Nat), s.status.fv = true →
    IsDegree (s.coef pa) da → IsDegree (s.coef pb) db →
    s.coef pa da = 0 ∨ s.coef pb db = 0 ∨ da + db ≤ 4095 →
    ∃ t, exec (.pmul pd pa pb) s = .next t ∧ KeepsBut (s.answered 0) t [pd] ∧
      (∀ j, j < 4096 → t.coef pd j = mulCoef s.gf (s.coef pa) (s.coef pb) j) ∧
      (s.coef pa da = 0 ∨ s.coef pb db = 0 → ∀ j, t.coef pd j = 0) ∧
      (s.Inv → s.coef pa da ≠ 0 → s.coef pb db ≠ 0 → IsDegree (t.coef pd) (da + db)))

/-- R168: quotient to `QT` and remainder to `RM`, which together give back the dividend, the remainder zero or of lower
degree than the divisor. -/
def Obligations.PdivmodRule : Prop :=
  (∀ pa pb : ArrSel, IsWordOf (BitVec.ofNat 32
    (0x46000000 + pa.number.toNat * 2 ^ 16 + pb.number.toNat * 2 ^ 12)) (.pdivmod pa pb)) ∧
  (∀ a b, a < 4096 → b < 4096 → a / 256 ≠ 0 ∨ 10 ≤ a / 16 % 16 ∨ 10 ≤ a % 16 ∨ b ≠ 0 →
    IllegalWord (wordOf 4 6 a b)) ∧
  (∀ (pa pb : ArrSel) (s : State), s.status.fv = false → exec (.pdivmod pa pb) s = .next (s.faulted 5)) ∧
  (∀ (pa pb : ArrSel) (s : State), s.status.fv = true → (∀ i, s.coef pb i = 0) →
    exec (.pdivmod pa pb) s = .next (s.faulted 2)) ∧
  (∀ (pa pb : ArrSel) (s : State) (db : Nat), s.status.fv = true → IsDegree (s.coef pb) db → s.coef pb db ≠ 0 →
    ∃ t, exec (.pdivmod pa pb) s = .next t ∧ KeepsBut (s.answered 0) t [.qt, .rm] ∧
      (s.Inv →
        (∀ i, s.coef pa i = mulCoef s.gf (t.coef .qt) (s.coef pb) i ^^^ t.coef .rm i) ∧
        ((∀ i, t.coef .rm i = 0) ∨ ∃ dr, IsDegree (t.coef .rm) dr ∧ dr < db)))

/-- R156 and R169: Horner's loop over the whole array register. -/
def Obligations.PevalRule : Prop :=
  (∀ (pa : ArrSel) (x : Cell),
    IsWordOf (BitVec.ofNat 32 (0x47000000 + pa.number.toNat * 2 ^ 16 + x.toNat)) (.peval pa x)) ∧
  (∀ a b, a < 4096 → b < 4096 → a / 256 ≠ 0 ∨ 10 ≤ a / 16 % 16 ∨ a % 16 ≠ 0 → IllegalWord (wordOf 4 7 a b)) ∧
  (∀ (pa : ArrSel) (x : Cell) (s : State), s.status.fv = false → exec (.peval pa x) s = .next (s.faulted 5)) ∧
  (∀ (pa : ArrSel) (x : Cell) (s : State), s.status.fv = true → ¬s.isElement x →
    exec (.peval pa x) s = .next (s.faulted 6)) ∧
  (∀ (pa : ArrSel) (x : Cell) (s : State), s.ArraysWf → s.status.fv = true → s.isElement x →
    exec (.peval pa x) s = .next (s.answered (resultOf (s.valueAt pa x).toNat))) ∧
  (∀ (pa : ArrSel) (x : Cell) (s : State), s.status.fv = true → s.isElement x →
    exec (.peval pa 0) s = .next (s.answered (resultOf (s.coef pa 0).toNat)) ∧
    ((∀ i, s.coef pa i = 0) → exec (.peval pa x) s = .next (s.answered 0)))

/-- R156: Horner's loop started at the degree or anywhere above gives one value, the sum of the terms; it respects sums
and products; at 0 it is the constant term and at 1 the XOR of all coefficients. -/
def Obligations.EvaluationIsHomomorphism : Prop :=
  ∀ (s : State) (p q : List Cell) (x : Cell), s.Inv → s.status.fv = true →
    (∀ c ∈ p, s.isElement c) → (∀ c ∈ q, s.isElement c) → s.isElement x →
    (∀ d k, IsDegree (Memory.read p) d → d < k → horner s.gf (Memory.read p) k x = polyEval s.gf p x) ∧
    polyEval s.gf p x = xorSum p.length (fun i => s.gf.mul (Memory.read p i) (s.gf.pow x i)) ∧
    polyEval s.gf p 0 = Memory.read p 0 ∧
    polyEval s.gf p 1 = xorSum p.length (Memory.read p) ∧
    polyEval s.gf (polyAdd p q) x = polyEval s.gf p x ^^^ polyEval s.gf q x ∧
    polyEval s.gf (polyMul s.gf p q) x = s.gf.mul (polyEval s.gf p x) (polyEval s.gf q x)

/-! ### Code parameters, generators, encoder -/

/-- R181, R182 and R183. -/
def Obligations.CodeSettersRule : Prop :=
  (∀ v : BitVec 12, IsWordOf (BitVec.ofNat 32 (0x50000000 + v.toNat)) (.csetn v) ∧
    IsWordOf (BitVec.ofNat 32 (0x51000000 + v.toNat)) (.csett v)) ∧
  IsWordOf 0x52000000 (.csetmode .bch) ∧ IsWordOf 0x52000001 (.csetmode .rs) ∧
  (∀ a b, a < 4096 → b < 4096 → 4096 ≤ a * 4096 + b →
    IllegalWord (wordOf 5 0 a b) ∧ IllegalWord (wordOf 5 1 a b)) ∧
  (∀ a b, a < 4096 → b < 4096 → 2 ≤ a * 4096 + b → IllegalWord (wordOf 5 2 a b)) ∧
  (∀ (v : BitVec 12) (mode : Mode) (s : State), s.status.fv = false →
    exec (.csetn v) s = .next (s.faulted 5) ∧ exec (.csett v) s = .next (s.faulted 5) ∧
    exec (.csetmode mode) s = .next (s.faulted 5)) ∧
  (∀ (n : BitVec 12) (s : State), s.status.fv = true → n.toNat < 1 ∨ s.ord < n.toNat →
    exec (.csetn n) s = .next (s.faulted 1)) ∧
  (∀ (n : BitVec 12) (s : State), s.status.fv = true → 1 ≤ n.toNat → n.toNat ≤ s.ord →
    exec (.csetn n) s = .next (({ s with n := n } : State).answered 0)) ∧
  (∀ (t : BitVec 12) (s : State), s.status.fv = true → t.toNat < 1 ∨ 2 ^ s.m.toNat < 2 * t.toNat + 2 →
    exec (.csett t) s = .next (s.faulted 1)) ∧
  (∀ (t : BitVec 12) (s : State), s.status.fv = true → 1 ≤ t.toNat → 2 * t.toNat + 2 ≤ 2 ^ s.m.toNat →
    exec (.csett t) s = .next (({ s with t := BitVec.ofNat 11 t.toNat } : State).answered 0)) ∧
  (∀ (mode : Mode) (s : State), s.status.fv = true →
    exec (.csetmode mode) s = .next (({ s with mode := mode } : State).answered 0))

/-- R186 and R187: `G` becomes the monic polynomial of degree ρ whose roots are exactly α to α^ρ. -/
def Obligations.GengRule : Prop :=
  (∀ rho : BitVec 12, IsWordOf (BitVec.ofNat 32 (0x53000000 + rho.toNat * 4096)) (.geng rho)) ∧
  SecondFieldMustBeZero 5 3 ∧
  (∀ (rho : BitVec 12) (s : State), s.status.fv = false → exec (.geng rho) s = .next (s.faulted 5)) ∧
  (∀ (rho : BitVec 12) (s : State), s.status.fv = true → rho.toNat < 1 ∨ 2 ^ s.m.toNat < rho.toNat + 2 →
    exec (.geng rho) s = .next (s.faulted 1)) ∧
  (∀ (rho : BitVec 12) (s : State), s.status.fv = true → 1 ≤ rho.toNat → rho.toNat + 2 ≤ 2 ^ s.m.toNat →
    ∃ t, exec (.geng rho) s = .next t ∧ KeepsBut (s.answered (resultOf rho.toNat)) t [.g] ∧
      (s.Inv →
        t.coef .g rho.toNat = 1 ∧ (∀ i, rho.toNat < i → t.coef .g i = 0) ∧
        t.coef .g 0 = s.gf.alpha (rho.toNat * (rho.toNat + 1) / 2) ∧
        (∀ i j, 1 ≤ i → i < j → j ≤ rho.toNat → s.gf.alpha i ≠ s.gf.alpha j) ∧
        ∀ x, s.isElement x → (t.valueAt .g x = 0 ↔ ∃ i, 1 ≤ i ∧ i ≤ rho.toNat ∧ x = s.gf.alpha i)))

/-- R188 and R189: `C` is the least set that holds 1 to 2t and is closed under doubling modulo 2^M − 1; `G` becomes the
monic polynomial of degree `|C|` whose roots are exactly the α^j with `j` in `C`. -/
def Obligations.GenbRule : Prop :=
  (∀ t : BitVec 12, IsWordOf (BitVec.ofNat 32 (0x54000000 + t.toNat * 4096)) (.genb t)) ∧
  SecondFieldMustBeZero 5 4 ∧
  (∀ (t : BitVec 12) (s : State), s.status.fv = false → exec (.genb t) s = .next (s.faulted 5)) ∧
  (∀ (t : BitVec 12) (s : State), s.status.fv = true → t.toNat < 1 ∨ 2 ^ s.m.toNat < 2 * t.toNat + 2 →
    exec (.genb t) s = .next (s.faulted 1)) ∧
  (∀ (t : BitVec 12) (s : State), s.Inv → s.status.fv = true → 1 ≤ t.toNat → 2 * t.toNat + 2 ≤ 2 ^ s.m.toNat →
    ∃ (C : List Nat) (u : State), C.Nodup ∧ DoublingClosed s.ord t.toNat C ∧
      (∀ D : List Nat, DoublingClosed s.ord t.toNat D → ∀ j ∈ C, j ∈ D) ∧
      0 ∉ C ∧
      exec (.genb t) s = .next u ∧ KeepsBut (s.answered (resultOf C.length)) u [.g] ∧
      u.coef .g C.length = 1 ∧ (∀ i, C.length < i → u.coef .g i = 0) ∧
      ∀ x, s.isElement x → (u.valueAt .g x = 0 ↔ ∃ j ∈ C, x = s.gf.alpha j))

/-- R188, from general knowledge by the spec's own mark: the generator of `GENB t` is binary, so `ENC` accepts it in BCH
mode, and its degree is at most M·t. -/
def Obligations.GenbIsBinary : Prop :=
  ∀ (t : BitVec 12) (s : State), s.Inv → s.status.fv = true → 1 ≤ t.toNat → 2 * t.toNat + 2 ≤ 2 ^ s.m.toNat →
    ∃ u, exec (.genb t) s = .next u ∧ (∀ i, (u.coef .g i).toNat ≤ 1) ∧
      ∃ d, IsDegree (u.coef .g) d ∧ u.res = resultOf d ∧ 1 ≤ d ∧ d ≤ s.m.toNat * t.toNat

/-- R190 and R191, with the layouts of R33: the checks in order, the cells `ENC` writes and those it does not, and the
parity: the word with the parity in the low coefficients and the data above is a multiple of `G`. -/
def Obligations.EncRule : Prop :=
  IsWordOf 0x55000000 .enc ∧ ImmediateMustBeZero 5 5 ∧
  (∀ s : State, s.status.fv = false → exec .enc s = .next (s.faulted 5)) ∧
  (∀ s : State, s.status.fv = true → (∀ r, ¬s.EncOK r) → exec .enc s = .next (s.faulted 1)) ∧
  (∀ (s : State) (r i : Nat), s.EncOK r → s.mode = .bch → r ≤ i → i < s.n.toNat → 1 < (s.coef .cw i).toNat →
    exec .enc s = .next (s.faulted 6)) ∧
  (∀ (s : State) (r : Nat), s.EncOK r →
    (s.mode = .bch → ∀ i, r ≤ i → i < s.n.toNat → (s.coef .cw i).toNat ≤ 1) →
    ∃ t, exec .enc s = .next t ∧ KeepsBut (s.answered 0) t [.cw] ∧
      (∀ i, i < 4096 → i < s.parityAt r ∨ s.parityAt r + r ≤ i → t.coef .cw i = s.coef .cw i) ∧
      (s.Inv →
        (∃ q : List Cell, (∀ c ∈ q, s.isElement c) ∧ ∀ i,
          (if i < r then t.coef .cw (s.parityAt r + i)
            else if i < s.n.toNat then s.coef .cw (s.dataAt r + (i - r)) else 0)
            = mulCoef s.gf (Memory.read q) (s.coef .g) i) ∧
        (s.mode = .bch → ∀ j, j < r → (t.coef .cw j).toNat ≤ 1) ∧
        ((∀ i, i < s.n.toNat - r → s.coef .cw (s.dataAt r + i) = 0) →
          ∀ j, j < r → t.coef .cw (s.parityAt r + j) = 0)))

/-! ### Decoder -/

/-- R184 and R185: without a field every decoder command faults `NotReady`; with one, a configuration that fails `DecOK`
faults `InvalidParameters`. `ENC` does the same on `GeomOK`. -/
def Obligations.DecoderChecks : Prop :=
  (∀ i ∈ Instr.enc :: decoderCommands, ∀ s : State, s.status.fv = false → exec i s = .next (s.faulted 5)) ∧
  (∀ i ∈ decoderCommands, ∀ s : State, s.status.fv = true → ¬s.DecOK → exec i s = .next (s.faulted 1)) ∧
  (∀ s : State, s.status.fv = true → ¬s.GeomOK → exec .enc s = .next (s.faulted 1)) ∧
  (∀ fn, 5 ≤ fn → fn ≤ 12 → ImmediateMustBeZero 5 fn)

/-- R201 and R202: the syndromes by Horner evaluation, `SZ`, and the frame. -/
def Obligations.SyndRule : Prop :=
  IsWordOf 0x56000000 .synd ∧ ImmediateMustBeZero 5 6 ∧
  (∀ s : State, s.status.fv = false → exec .synd s = .next (s.faulted 5)) ∧
  (∀ s : State, s.status.fv = true → ¬s.DecOK → exec .synd s = .next (s.faulted 1)) ∧
  (∀ s : State, s.DecOK → ¬s.BitsOK → exec .synd s = .next (s.faulted 6)) ∧
  (∀ s : State, s.DecOK → s.BitsOK → ∃ (t : State) (z : Bool),
    exec .synd s = .next t ∧ (z = true ↔ s.InCode (s.coef .cw)) ∧
    KeepsBut (({ s with status := { s.status with sz := z } } : State).answered (if z then 1 else 0)) t [.syn] ∧
    ∀ j, j < 4096 → t.coef .syn j = if j < 2 * s.t.toNat then s.syndrome (s.coef .cw) j else 0)

/-- R204 and R206: `BMA` ends with the variables of the loop, which is transcribed line by line in `bmLoopRun`. -/
def Obligations.BmaRule : Prop :=
  IsWordOf 0x57000000 .bma ∧ ImmediateMustBeZero 5 7 ∧
  (∀ s : State, s.status.fv = false → exec .bma s = .next (s.faulted 5)) ∧
  (∀ s : State, s.status.fv = true → ¬s.DecOK → exec .bma s = .next (s.faulted 1)) ∧
  (∀ s : State, s.DecOK → ∃ (t : State) (v : BmLoop), v = bmLoopRun s.gf (s.coef .syn) (2 * s.t.toNat) ∧
    exec .bma s = .next t ∧
    KeepsBut (({ s with l := BitVec.ofNat 12 v.l, pos := BitVec.ofNat 12 v.pos, bd := v.bd } : State).answered
      (resultOf v.l)) t [.lam, .bp] ∧
    (∀ i, i < 4096 → t.coef .lam i = v.lam i ∧ t.coef .bp i = v.bp i) ∧
    v.l < 4096 ∧ v.pos < 4096) ∧
  (∀ s : State, s.DecOK → (∀ j, j < 2 * s.t.toNat → s.coef .syn j = 0) → ∃ t,
    exec .bma s = .next t ∧ t.l = 0 ∧ t.pos.toNat = 2 * s.t.toNat + 1 ∧ t.bd = 1 ∧
    ∀ i, t.coef .lam i = oneCoef i ∧ t.coef .bp i = oneCoef i)

/-- What R205 says holds after the loop: the bounds, `LAM[0] = 1`, the degree, `BD ≠ 0`, and that `LAM` generates the
syndrome sequence. -/
def Obligations.BmaGeneratesSyndromes : Prop :=
  ∀ s : State, s.Inv → s.DecOK → ∃ t, exec .bma s = .next t ∧
    t.l.toNat ≤ 2 * s.t.toNat ∧ 1 ≤ t.pos.toNat ∧ t.pos.toNat ≤ 2 * s.t.toNat + 1 ∧ t.bd ≠ 0 ∧
    t.coef .lam 0 = 1 ∧ (∀ i, t.l.toNat < i → t.coef .lam i = 0) ∧
    ∀ q, t.l.toNat ≤ q → q < 2 * s.t.toNat →
      xorSum (t.l.toNat + 1) (fun i => s.gf.mul (t.coef .lam i) (s.coef .syn (q - i))) = 0

/-- R210 and R214: the positions in ascending order, their count, and the two flags. -/
def Obligations.ChienRule : Prop :=
  IsWordOf 0x58000000 .chien ∧ ImmediateMustBeZero 5 8 ∧
  (∀ s : State, s.status.fv = false → exec .chien s = .next (s.faulted 5)) ∧
  (∀ s : State, s.status.fv = true → ¬s.DecOK → exec .chien s = .next (s.faulted 1)) ∧
  (∀ s : State, s.ArraysWf → s.DecOK → ∃ (t : State) (roots : List Nat),
    roots.Pairwise (· < ·) ∧ (∀ i, i ∈ roots ↔ i < s.n.toNat ∧ s.valueAt .lam (s.gf.alphaNeg i) = 0) ∧
    exec .chien s = .next t ∧
    KeepsBut
      (({ s with
          nroots := BitVec.ofNat 12 roots.length
          status := { s.status with
            tmr := decide (s.t.toNat < roots.length), rlm := decide (roots.length ≠ s.l.toNat) } } : State).answered
        (resultOf roots.length)) t [.epos] ∧
    roots.length < 4096 ∧ ∀ j, j < 4096 → (t.coef .epos j).toNat = roots.getD j 0)

/-- R216 and R217: the first 2T coefficients of the product of `SYN` and `LAM`, and 0 above. -/
def Obligations.OmegaRule : Prop :=
  IsWordOf 0x59000000 .omega ∧ ImmediateMustBeZero 5 9 ∧
  (∀ s : State, s.status.fv = false → exec .omega s = .next (s.faulted 5)) ∧
  (∀ s : State, s.status.fv = true → ¬s.DecOK → exec .omega s = .next (s.faulted 1)) ∧
  (∀ s : State, s.DecOK → ∃ t, exec .omega s = .next t ∧ KeepsBut (s.answered 0) t [.omg] ∧
    ∀ i, i < 4096 →
      t.coef .omg i = if i < 2 * s.t.toNat then mulCoef s.gf (s.coef .syn) (s.coef .lam) i else 0)

/-- R158, R218 and R219: the error values, 0 where the denominator is 0, and `FDZ`. -/
def Obligations.ForneyRule : Prop :=
  IsWordOf 0x5A000000 .forney ∧ ImmediateMustBeZero 5 10 ∧
  (∀ s : State, s.status.fv = false → exec .forney s = .next (s.faulted 5)) ∧
  (∀ s : State, s.status.fv = true → ¬s.DecOK → exec .forney s = .next (s.faulted 1)) ∧
  (∀ s : State, s.ArraysWf → s.DecOK → ∃ (t : State) (fdz : Bool),
    (fdz = true ↔ ∃ j, j < s.nroots.toNat ∧ s.denominator j = 0) ∧ exec .forney s = .next t ∧
    KeepsBut (({ s with status := { s.status with fdz := fdz } } : State).answered (if fdz then 1 else 0)) t
      [.eval] ∧
    ∀ j, j < 4096 → t.coef .eval j =
      if j < s.nroots.toNat ∧ s.denominator j ≠ 0 then s.gf.quot (s.numerator j) (s.denominator j) else 0)

/-- R222 and R223: nothing to correct, failure, or every listed position below `N` corrected by 1 or by its magnitude. That a
listed position at `N` or above, which only the host can have written, is passed over is the model's choice between R222,
which names every listed position, and R33, which keeps codec commands off those cells (assumption 10). -/
def Obligations.CorrectRule : Prop :=
  IsWordOf 0x5B000000 .correct ∧ ImmediateMustBeZero 5 11 ∧
  (∀ s : State, s.status.fv = false → exec .correct s = .next (s.faulted 5)) ∧
  (∀ s : State, s.status.fv = true → ¬s.DecOK → exec .correct s = .next (s.faulted 1)) ∧
  (∀ s : State, s.DecOK → s.status.sz = true → exec .correct s =
    .next (({ s with ecnt := 0, status := { s.status with ok := true } } : State).answered 1)) ∧
  (∀ s : State, s.DecOK → s.status.sz = false → s.Failed → exec .correct s =
    .next (({ s with ecnt := 0, status := { s.status with ok := false } } : State).answered 0)) ∧
  (∀ s : State, s.DecOK → s.status.sz = false → ¬s.Failed → ∃ t, exec .correct s = .next t ∧
    KeepsBut (({ s with ecnt := s.nroots, status := { s.status with ok := true } } : State).answered 1) t [.cw] ∧
    (∀ i, i < s.n.toNat → t.coef .cw i = s.coef .cw i ^^^ xorSum s.nroots.toNat (fun j =>
      if (s.coef .epos j).toNat = i then (if s.mode = .bch then 1 else s.coef .eval j) else 0)) ∧
    ∀ i, s.n.toNat ≤ i → i < 4096 → t.coef .cw i = s.coef .cw i)

/-- R231: `DECODE` clears the record of the decode before, then does what the phase commands do in the contract order
(`State.phases`, which ends in `CORRECT`), and answers `OK`; the whole state agrees but for `RES` and the response. -/
def Obligations.DecodeRunsThePhases : Prop :=
  IsWordOf 0x5C000000 .decode ∧ ImmediateMustBeZero 5 12 ∧
  (∀ s : State, s.status.fv = false → exec .decode s = .next (s.faulted 5)) ∧
  (∀ s : State, s.status.fv = true → ¬s.DecOK → exec .decode s = .next (s.faulted 1)) ∧
  (∀ s : State, s.DecOK → ¬s.BitsOK → exec .decode s = .next (s.faulted 6)) ∧
  (∀ s : State, s.DecOK → s.BitsOK → exec .decode s =
    .next (({ s.cleared.phases with responses := s.responses } : State).answered
      (if s.cleared.phases.status.ok then 1 else 0)))

/-- R275: the phase commands issued in order, without `DECODE`'s clearing, leave in `CW`, `SYN`, `SZ` and `OK` what
`DECODE` leaves, and when the syndromes are not all zero in every other decoder register except those of a phase that
did not run. -/
def Obligations.PhaseCommandsMatchDecode : Prop :=
  ∀ s : State, s.DecOK → s.BitsOK → ∃ t, exec .decode s = .next t ∧
    s.phases.arr .cw = t.arr .cw ∧ s.phases.arr .syn = t.arr .syn ∧
    s.phases.status.sz = t.status.sz ∧ s.phases.status.ok = t.status.ok ∧
    (t.status.sz = false →
      s.phases.arr .lam = t.arr .lam ∧ s.phases.arr .bp = t.arr .bp ∧ s.phases.arr .epos = t.arr .epos ∧
      s.phases.l = t.l ∧ s.phases.pos = t.pos ∧ s.phases.bd = t.bd ∧ s.phases.nroots = t.nroots ∧
      s.phases.ecnt = t.ecnt ∧ s.phases.status.tmr = t.status.tmr ∧ s.phases.status.rlm = t.status.rlm ∧
      (s.mode = .rs → t.status.tmr = false → t.status.rlm = false →
        s.phases.arr .omg = t.arr .omg ∧ s.phases.arr .eval = t.arr .eval ∧
        s.phases.status.fdz = t.status.fdz))

/-- The three outcomes R231 lists for `DECODE`: a word of the code, a corrected word, or a failure with `CW` unchanged, in
which `FDZ` is never the reason. No array but the decoder's own and no register but the decoder's own changes. -/
def Obligations.DecodeHasThreeOutcomes : Prop :=
  ∀ s : State, s.Inv → s.DecOK → s.BitsOK → ∃ t, exec .decode s = .next t ∧
    ((t.status = ⟨true, true, true, false, false, false⟩ ∧ t.ecnt = 0 ∧ t.nroots = 0 ∧ t.arr .cw = s.arr .cw ∧
        s.InCode (s.coef .cw)) ∨
      (t.status = ⟨true, false, true, false, false, false⟩ ∧ t.ecnt = t.nroots ∧ t.nroots = t.l ∧
        1 ≤ t.l.toNat ∧ t.l.toNat ≤ s.t.toNat) ∨
      (t.status.fv = true ∧ t.status.sz = false ∧ t.status.ok = false ∧ t.status.fdz = false ∧
        (t.status.tmr = true ∨ t.status.rlm = true) ∧ t.ecnt = 0 ∧ t.arr .cw = s.arr .cw)) ∧
    (∀ sel, sel = .g ∨ sel = .qt ∨ sel = .rm → t.arr sel = s.arr sel) ∧
    (s.mode = .bch → t.arr .omg = s.arr .omg) ∧
    t.m = s.m ∧ t.prim = s.prim ∧ t.n = s.n ∧ t.t = s.t ∧ t.mode = s.mode ∧ t.exp = s.exp ∧ t.log = s.log ∧
    t.lasterr = s.lasterr ∧ t.esticky = s.esticky ∧ t.pending = s.pending

/-- R193 (d) and R232 (a): a word that `ENC` made with a generator that has α to α^(2T) among its roots has zero
syndromes, and `DECODE` leaves it unchanged and reports success with no error. -/
def Obligations.EncodedWordDecodesClean : Prop :=
  ∀ (s : State) (r : Nat), s.Inv → s.EncOK r → s.DecOK →
    (s.mode = .bch → ∀ i, r ≤ i → i < s.n.toNat → (s.coef .cw i).toNat ≤ 1) →
    (∀ j, 1 ≤ j → j ≤ 2 * s.t.toNat → s.valueAt .g (s.gf.alpha j) = 0) →
    ∃ t u v, exec .enc s = .next t ∧ exec .synd t = .next u ∧ u.status.sz = true ∧ u.res = 1 ∧
      exec .decode t = .next v ∧ v.res = 1 ∧ v.status.sz = true ∧ v.status.ok = true ∧ v.ecnt = 0 ∧
      v.arr .cw = t.arr .cw

/-- R232 (b): a code word with one error, of value `e` at position `p`, is restored, and the position is reported. -/
def Obligations.DecodeCorrectsOneError : Prop :=
  ∀ (s : State) (c : Nat → Cell) (e : Cell) (p : Nat), s.Inv → s.DecOK → s.InCode c →
    (∀ i, i < s.n.toNat → s.isElement (c i)) → s.isElement e → e ≠ 0 → p < s.n.toNat →
    (s.mode = .bch → e = 1 ∧ ∀ i, i < s.n.toNat → (c i).toNat ≤ 1) →
    (∀ i, i < s.n.toNat → s.coef .cw i = if i = p then c i ^^^ e else c i) →
    ∃ t, exec .decode s = .next t ∧ t.res = 1 ∧ t.status.ok = true ∧ t.ecnt = 1 ∧ t.nroots = 1 ∧
      (t.coef .epos 0).toNat = p ∧ ∀ i, i < s.n.toNat → t.coef .cw i = c i

/-- R232 (c): a code word with errors `e` at the positions `P`, at most T of them, is restored, and exactly those
positions are reported, ascending. -/
def Obligations.DecodeCorrectsUpToT : Prop :=
  ∀ (s : State) (c e : Nat → Cell) (P : List Nat), s.Inv → s.DecOK → s.InCode c →
    (∀ i, i < s.n.toNat → s.isElement (c i) ∧ s.isElement (e i)) →
    P.Pairwise (· < ·) → (∀ i, i ∈ P ↔ i < s.n.toNat ∧ e i ≠ 0) → 1 ≤ P.length → P.length ≤ s.t.toNat →
    (s.mode = .bch → ∀ i, i < s.n.toNat → (c i).toNat ≤ 1 ∧ (e i).toNat ≤ 1) →
    (∀ i, i < s.n.toNat → s.coef .cw i = c i ^^^ e i) →
    ∃ t, exec .decode s = .next t ∧ t.res = 1 ∧ t.status.ok = true ∧ t.ecnt.toNat = P.length ∧
      t.nroots.toNat = P.length ∧ (∀ j, j < P.length → (t.coef .epos j).toNat = P.getD j 0) ∧
      ∀ i, i < s.n.toNat → t.coef .cw i = c i

/-- R232 (d) and R276: whenever `DECODE` reports success the word it leaves has zero syndromes and lies within T symbols of
the received word, so a second `DECODE` finds zero syndromes. -/
def Obligations.SuccessLeavesACodeWord : Prop :=
  ∀ s t : State, s.Inv → s.DecOK → s.BitsOK → exec .decode s = .next t → t.status.ok = true →
    s.InCode (t.coef .cw) ∧
    ((List.range s.n.toNat).filter (fun i => t.coef .cw i != s.coef .cw i)).length ≤ s.t.toNat ∧
    ∃ u, exec .decode t = .next u ∧ u.status.sz = true ∧ u.status.ok = true

/-- R276: a second `CORRECT` without a new search restores the received word and still reports success. -/
def Obligations.CorrectTwiceRestores : Prop :=
  ∀ s : State, s.DecOK → s.status.sz = false → ¬s.Failed → ∃ t u, exec .correct s = .next t ∧
    exec .correct t = .next u ∧ u.status.ok = true ∧ u.ecnt = s.nroots ∧
    ∀ i, i < 4096 → u.coef .cw i = s.coef .cw i

/-! ### The whole machine -/

/-- R246: without a field exactly the commands that need it fault `NotReady`. -/
def Obligations.NotReadyCommands : Prop :=
  (∀ (i : Instr) (s : State), needsField i = true → s.status.fv = false → exec i s = .next (s.faulted 5)) ∧
  (∀ (i : Instr) (s : State), exec i s = .next (s.faulted 5) → needsField i = true ∧ s.status.fv = false)

/-- R25 and R251: with a field the construction commands fault `Locked`, nothing else does, and no command but `RESET`
changes `M`, `PRIM`, a table or `FV`. -/
def Obligations.FieldIsLocked : Prop :=
  (∀ (s : State) (m : BitVec 24) (p : BitVec 13), s.status.fv = true →
    exec (.fsetm m) s = .next (s.faulted 9) ∧ exec (.fsetp p) s = .next (s.faulted 9) ∧
    exec .finit s = .next (s.faulted 9)) ∧
  (∀ (i : Instr) (s : State), exec i s = .next (s.faulted 9) →
    s.status.fv = true ∧ (i = .finit ∨ (∃ m, i = .fsetm m) ∨ ∃ p, i = .fsetp p)) ∧
  (∀ (i : Instr) (s t : State), i ≠ .reset → s.status.fv = true → exec i s = .next t →
    t.m = s.m ∧ t.prim = s.prim ∧ t.exp = s.exp ∧ t.log = s.log ∧ t.status.fv = true)

/-- "Written only by": each register and flag, and the tables, change under the commands the spec names for them (R22, R23,
R24, R26, R34 to R39) and `RESET` only. -/
def Obligations.RegisterWriters : Prop :=
  ∀ (i : Instr) (s t : State), exec i s = .next t → i ≠ .reset →
    (t.m ≠ s.m → ∃ m, i = .fsetm m) ∧
    (t.prim ≠ s.prim → (∃ m, i = .fsetm m) ∨ ∃ p, i = .fsetp p) ∧
    (t.n ≠ s.n → ∃ n, i = .csetn n) ∧
    (t.t ≠ s.t → ∃ c, i = .csett c) ∧
    (t.mode ≠ s.mode → ∃ mode, i = .csetmode mode) ∧
    (t.status.fv ≠ s.status.fv ∨ t.exp ≠ s.exp ∨ t.log ≠ s.log → i = .finit) ∧
    (t.l ≠ s.l ∨ t.pos ≠ s.pos ∨ t.bd ≠ s.bd → i = .bma ∨ i = .decode) ∧
    (t.nroots ≠ s.nroots ∨ t.status.tmr ≠ s.status.tmr ∨ t.status.rlm ≠ s.status.rlm → i = .chien ∨ i = .decode) ∧
    (t.ecnt ≠ s.ecnt ∨ t.status.ok ≠ s.status.ok → i = .correct ∨ i = .decode) ∧
    (t.status.sz ≠ s.status.sz → i = .synd ∨ i = .decode) ∧
    (t.status.fdz ≠ s.status.fdz → i = .forney ∨ i = .decode)

/-- The "written by" column of R61: an array register changes only under the commands listed for it. And R33's last
sentence: no codec command writes a cell of `CW` at `N` or above, and none reads one: with other contents there, its
outcome is the same but for those cells. For `CORRECT` on a position at `N` or above that the host listed, R33 is taken
over R222, which is the model's choice (assumption 10). -/
def Obligations.ArrayWriters : Prop :=
  (∀ (i : Instr) (s t : State) (sel : ArrSel), exec i s = .next t → sel ∉ writesArrays i → t.arr sel = s.arr sel) ∧
  (∀ (i : Instr) (s t : State) (k : Nat), isCodec i = true → exec i s = .next t → s.n.toNat ≤ k → k < 4096 →
    t.coef .cw k = s.coef .cw k) ∧
  (∀ (i : Instr) (s t : State) (other : Memory), isCodec i = true → exec i s = .next t →
    (∀ k, k < s.n.toNat → Memory.read other k = s.coef .cw k) →
    ∃ u, exec i { s with arrays := { s.arrays with cw := other } } = .next u ∧
      { u with arrays := { u.arrays with cw := t.arrays.cw } } = t ∧
      ∀ k, k < s.n.toNat → u.coef .cw k = t.coef .cw k)

/-- R258's columns L, N, P, R, Z, G and V: a command raises only the kinds listed for it, and each of those in some state
with some operands. -/
def Obligations.KindsEachCommandRaises : Prop :=
  (∀ (i : Instr) (s : State) (c : BitVec 4), c ≠ 0 → exec i s = .next (s.faulted c) → c ∈ mayRaise i) ∧
  (∀ (i : Instr) (c : BitVec 4), c ∈ mayRaise i →
    ∃ (j : Instr) (s : State), s.Inv ∧ j.mnemonic = i.mnemonic ∧ exec j s = .next (s.faulted c))

/-- R29 and R274: no command's outcome depends on a table cell without a field, on `EXP` at 2^M − 1 and above, on `LOG` at
2^M and above, or on `LOG[0]`: with other contents there, the next state differs in the tables at most. -/
def Obligations.UnobservableTableCells : Prop :=
  (∀ (i : Instr) (s t : State) (e l : List Cell), s.status.fv = false → exec i s = .next t →
    ∃ u, exec i { s with exp := e, log := l } = .next u ∧ { u with exp := t.exp, log := t.log } = t) ∧
  (∀ (i : Instr) (s t : State) (e l : List Cell), s.Inv → s.status.fv = true →
    (∀ k, k < s.ord → e.getD k 0 = s.expCell k) →
    (∀ a : Cell, a ≠ 0 → s.isElement a → (l.getD a.toNat 0).toNat = s.logCell a) → exec i s = .next t →
    ∃ u, exec i { s with exp := e, log := l } = .next u ∧ { u with exp := t.exp, log := t.log } = t)

/-- The reset state meets the invariant. -/
def Obligations.ResetMeetsInvariant : Prop := State.reset.Inv

/-- Every step from a state of the invariant leads to a state of the invariant (R24, R28, R31, R34, R35, R41, R245). -/
def Obligations.StepKeepsInvariant : Prop := ∀ s t : State, s.Inv → step s = .next t → t.Inv
end

