-- ==== Sys2Proof/Laws/Memory.lean ====
section
/-! SUPPORT. What the cell operations read back and keep: a read after a write, the frame of a write, and the canonical
form of every array register. -/

namespace Sys2Proof.Machine

@[simp] theorem Memory.read_nil (i : Nat) : Memory.read [] i = 0 := by simp [Memory.read]

@[simp] theorem Memory.read_cons_zero (c : Cell) (cs : List Cell) : Memory.read (c :: cs) 0 = c := by
  simp [Memory.read]

@[simp] theorem Memory.read_cons_succ (c : Cell) (cs : List Cell) (i : Nat) :
    Memory.read (c :: cs) (i + 1) = Memory.read cs i := by
  simp [Memory.read]

theorem Memory.read_of_length_le {cs : List Cell} {i : Nat} (h : cs.length ≤ i) : Memory.read cs i = 0 := by
  simp [Memory.read, List.getD_eq_getElem?_getD, List.getElem?_eq_none h]

theorem Memory.read_take (cs : List Cell) (k i : Nat) :
    Memory.read (cs.take k) i = if i < k then Memory.read cs i else 0 := by
  simp only [Memory.read, List.getD_eq_getElem?_getD, List.getElem?_take]
  split <;> simp

/-! ### The normalised form -/

@[simp] theorem Memory.trim_nil : Memory.trim [] = [] := rfl

theorem Memory.trim_cons (c : Cell) (cs : List Cell) :
    Memory.trim (c :: cs) = if Memory.trim cs = [] ∧ c = 0 then [] else c :: Memory.trim cs := by
  rw [Memory.trim]
  cases h : Memory.trim cs <;> simp

@[simp] theorem Memory.read_trim (cs : List Cell) (i : Nat) : Memory.read (Memory.trim cs) i = Memory.read cs i := by
  induction cs generalizing i with
  | nil => rfl
  | cons c cs ih =>
    rw [Memory.trim_cons]
    cases i with
    | zero => split <;> simp_all
    | succ i =>
      split
      · rename_i h; rw [Memory.read_cons_succ, ← ih, h.1]; simp
      · simp [ih]

theorem Memory.trim_length_le (cs : List Cell) : (Memory.trim cs).length ≤ cs.length := by
  induction cs with
  | nil => simp
  | cons c cs ih => rw [Memory.trim_cons]; split <;> simp; omega

theorem Memory.trim_getLast (cs : List Cell) : (Memory.trim cs).getLast? ≠ some 0 := by
  induction cs with
  | nil => simp
  | cons c cs ih =>
    rw [Memory.trim_cons]
    split
    · simp
    · rename_i h
      cases ht : Memory.trim cs with
      | nil => simp_all
      | cons d ds => rw [ht] at ih; simpa [List.getLast?_cons_cons] using ih

theorem Memory.trim_eq_nil_iff (cs : List Cell) : Memory.trim cs = [] ↔ ∀ c ∈ cs, c = 0 := by
  induction cs with
  | nil => simp
  | cons c cs ih =>
    rw [Memory.trim_cons, List.forall_mem_cons, ← ih]
    split <;> rename_i h
    · simp [h]
    · simp only [reduceCtorEq, false_iff]; exact fun h' => h ⟨h'.2, h'.1⟩

/-- A list that does not end in zero is its own normalised form. -/
theorem Memory.trim_of_getLast {cs : List Cell} (h : cs.getLast? ≠ some 0) : Memory.trim cs = cs := by
  induction cs with
  | nil => rfl
  | cons c cs ih =>
    rw [Memory.trim_cons]
    cases cs with
    | nil => simp_all
    | cons d ds => rw [ih (by simpa [List.getLast?_cons_cons] using h)]; simp

/-- Normalised lists are determined by their coefficients. -/
theorem Memory.ext_of_getLast {cs ds : List Cell} (hc : cs.getLast? ≠ some 0) (hd : ds.getLast? ≠ some 0)
    (h : ∀ i, Memory.read cs i = Memory.read ds i) : cs = ds := by
  induction cs generalizing ds with
  | nil =>
    have hz : ∀ c ∈ ds, c = 0 := fun c hm => by
      obtain ⟨i, hi, rfl⟩ := List.getElem_of_mem hm
      have := h i
      simpa [Memory.read, List.getD_eq_getElem?_getD, hi] using this.symm
    rw [← Memory.trim_of_getLast hd, (Memory.trim_eq_nil_iff ds).2 hz]
  | cons c cs ih =>
    have hc' : cs.getLast? ≠ some 0 := by
      cases cs with
      | nil => simp
      | cons d ds => simpa [List.getLast?_cons_cons] using hc
    cases ds with
    | nil =>
      have hz : ∀ e ∈ c :: cs, e = 0 := fun e hm => by
        obtain ⟨i, hi, rfl⟩ := List.getElem_of_mem hm
        have := h i
        rw [Memory.read_nil] at this
        simpa only [Memory.read, List.getD_eq_getElem?_getD, List.getElem?_eq_getElem hi, Option.getD_some] using this
      rw [← Memory.trim_of_getLast hc, (Memory.trim_eq_nil_iff _).2 hz]
    | cons d ds =>
      have hd' : ds.getLast? ≠ some 0 := by
        cases ds with
        | nil => simp
        | cons e es => simpa [List.getLast?_cons_cons] using hd
      have h0 := h 0
      simp only [Memory.read_cons_zero] at h0
      rw [h0, ih hc' hd' fun i => by simpa using h (i + 1)]

/-! ### Writing -/

theorem Memory.read_put (cs : List Cell) (i j : Nat) (v : Cell) :
    Memory.read (Memory.put cs i v) j = if j = i then v else Memory.read cs j := by
  induction cs generalizing i j with
  | nil =>
    induction i generalizing j with
    | zero => cases j <;> simp [Memory.put]
    | succ i ih => cases j <;> simp [Memory.put, ih]
  | cons c cs ih => cases i <;> cases j <;> simp [Memory.put, ih]

theorem Memory.put_length (cs : List Cell) (i : Nat) (v : Cell) :
    (Memory.put cs i v).length = max cs.length (i + 1) := by
  induction cs generalizing i with
  | nil =>
    induction i with
    | zero => simp [Memory.put]
    | succ i ih => simp [Memory.put, ih]
  | cons c cs ih => cases i <;> simp [Memory.put, ih]

theorem Memory.read_store (p : List Cell) (i : Nat) :
    Memory.read (Memory.store p) i = if i < Config.plen then Memory.read p i else 0 := by
  rw [Memory.store, Memory.read_trim, Memory.read_take]

@[simp] theorem Memory.store_nil : Memory.store [] = [] := rfl

/-- The canonical form, as two facts. -/
theorem Memory.wf_iff (mem : Memory) : Memory.wf mem = true ↔ mem.length ≤ Config.plen ∧ mem.getLast? ≠ some 0 := by
  simp [Memory.wf]

@[simp] theorem Memory.wf_nil : Memory.wf [] = true := rfl

/-- Every whole-array write leaves the canonical form. -/
@[simp] theorem Memory.wf_store (p : List Cell) : Memory.wf (Memory.store p) = true := by
  rw [Memory.wf_iff]
  refine ⟨?_, Memory.trim_getLast _⟩
  have := Memory.trim_length_le (p.take Config.plen)
  rw [List.length_take] at this
  exact this.trans (Nat.min_le_left _ _)

/-- Storing an array register's contents writes what is there. -/
theorem Memory.store_of_wf {mem : Memory} (h : Memory.wf mem = true) : Memory.store mem = mem := by
  obtain ⟨h1, h2⟩ := (Memory.wf_iff mem).1 h
  rw [Memory.store, List.take_of_length_le h1, Memory.trim_of_getLast h2]

/-- Canonical arrays with the same cells are the same data. -/
theorem Memory.ext_of_wf {a b : Memory} (ha : Memory.wf a = true) (hb : Memory.wf b = true)
    (h : ∀ i, Memory.read a i = Memory.read b i) : a = b :=
  Memory.ext_of_getLast ((Memory.wf_iff a).1 ha).2 ((Memory.wf_iff b).1 hb).2 h

/-- Beyond the last of its 4096 cells an array register reads 0. -/
theorem Memory.read_of_wf {mem : Memory} (h : Memory.wf mem = true) {i : Nat} (hi : Config.plen ≤ i) :
    Memory.read mem i = 0 := Memory.read_of_length_le (((Memory.wf_iff mem).1 h).1.trans hi)

theorem Memory.read_write (mem : Memory) (i j : Nat) (v : Cell) :
    Memory.read (Memory.write mem i v) j =
      if j < Config.plen then (if j = i then v else Memory.read mem j) else 0 := by
  rw [Memory.write, Memory.read_store, Memory.read_put]

@[simp] theorem Memory.wf_write (mem : Memory) (i : Nat) (v : Cell) : Memory.wf (Memory.write mem i v) = true :=
  Memory.wf_store _

/-- The cells a run of writes leaves: the values in turn from `base` on, and the rest as before. -/
theorem Memory.read_writeFrom (mem : Memory) (base : Nat) (vs : List Cell) {j : Nat} (hj : j < Config.plen) :
    Memory.read (Memory.writeFrom mem base vs) j =
      if base ≤ j ∧ j < base + vs.length then Memory.read vs (j - base) else Memory.read mem j := by
  induction vs generalizing mem base with
  | nil =>
    rw [Memory.writeFrom, if_neg]
    simp
  | cons v vs ih =>
    rw [Memory.writeFrom, ih, Memory.read_write, if_pos hj]
    simp only [List.length_cons]
    rcases Nat.lt_trichotomy j base with h | h | h
    · rw [if_neg (by omega), if_neg (by omega), if_neg (by omega)]
    · subst h
      rw [if_neg (by omega), if_pos rfl, if_pos (by omega), Nat.sub_self, Memory.read_cons_zero]
    · by_cases hb : j < base + 1 + vs.length
      · rw [if_pos (by omega), if_pos (by omega), show j - base = (j - (base + 1)) + 1 by omega,
          Memory.read_cons_succ]
      · rw [if_neg (by omega), if_neg (by omega), if_neg (by omega)]

theorem Memory.wf_writeFrom {mem : Memory} (h : Memory.wf mem = true) (base : Nat) (vs : List Cell) :
    Memory.wf (Memory.writeFrom mem base vs) = true := by
  induction vs generalizing mem base with
  | nil => exact h
  | cons v vs ih => exact ih (Memory.wf_write _ _ _) _

end Sys2Proof.Machine
end

