-- ==== Sys2Proof/Laws/Decoder.lean ====
section
/-! SUPPORT. Which cells of `CW` one listed error, and a whole correction, change. -/

namespace Sys2Proof.Machine

/-- One listed error changes the cell of its position, if that is below `N`, and no other (R222, R33). -/
theorem State.read_correctCell (s : State) (cw : Memory) (j : Nat) {i : Nat} (hi : i < Config.plen) :
    Memory.read (s.correctCell cw j) i =
      if i < s.n.toNat ∧ (s.coef .epos j).toNat = i then Memory.read cw i ^^^ s.magnitude j else Memory.read cw i := by
  change Memory.read (if (s.coef .epos j).toNat < s.n.toNat then
    Memory.write cw (s.coef .epos j).toNat (gfAdd (Memory.read cw (s.coef .epos j).toNat) (s.magnitude j)) else cw) i = _
  split
  · rw [Memory.read_write, if_pos hi]
    by_cases h : (s.coef .epos j).toNat = i
    · rw [if_pos h.symm, if_pos ⟨by omega, h⟩, ← h]; rfl
    · rw [if_neg (Ne.symm h), if_neg fun hc => h hc.2]
  · rw [if_neg (by omega)]

/-- Every run of listed errors leaves the cells at `N` and above alone (R33). -/
theorem State.read_foldl_correctCell_above (s : State) (cw : Memory) (js : List Nat) {i : Nat}
    (hn : s.n.toNat ≤ i) (hi : i < Config.plen) : Memory.read (js.foldl s.correctCell cw) i = Memory.read cw i := by
  induction js generalizing cw with
  | nil => rfl
  | cons j js ih => rw [List.foldl_cons, ih, State.read_correctCell _ _ _ hi, if_neg (by omega)]

/-- Listed errors keep the canonical form. -/
theorem State.wf_correctCell (s : State) {cw : Memory} (h : Memory.wf cw = true) (j : Nat) :
    Memory.wf (s.correctCell cw j) = true := by
  change Memory.wf (if (s.coef .epos j).toNat < s.n.toNat then _ else cw) = true
  split
  · exact Memory.wf_write _ _ _
  · exact h

end Sys2Proof.Machine
end

