-- ==== Sys2Proof/Laws/Encoding.lean ====
section
/-! SUPPORT. Words and fields are each other's inverses, selector and register numbers too. -/

namespace Sys2Proof

/-- The bits of a word by its fields (R83). -/
theorem Fields.getLsbD_toWord (f : Fields) (i : Nat) : f.toWord.getLsbD i =
    if i < 12 then f.b.getLsbD i else if i < 24 then f.a.getLsbD (i - 12)
    else if i < 28 then f.fn.getLsbD (i - 24) else f.grp.getLsbD (i - 28) := by
  simp only [Fields.toWord, BitVec.getLsbD_append]
  by_cases h1 : i < 12
  · simp [h1]
  · by_cases h2 : i < 24
    · simp [h1, h2, show i - 12 < 12 by omega]
    · by_cases h3 : i < 28
      · simp [h1, h2, h3, show ¬ i - 12 < 12 by omega, show i - 12 - 12 = i - 24 by omega,
          show i - 24 < 4 by omega]
      · simp [h1, h2, h3, show ¬ i - 12 < 12 by omega, show i - 12 - 12 = i - 24 by omega,
          show ¬ i - 24 < 4 by omega, show i - 24 - 4 = i - 28 by omega]

@[simp] theorem Fields.ofWord_toWord (f : Fields) : Fields.ofWord f.toWord = f := by
  obtain ⟨grp, fn, a, b⟩ := f
  simp only [Fields.ofWord, Fields.mk.injEq]
  refine ⟨?_, ?_, ?_, ?_⟩ <;> apply BitVec.eq_of_getLsbD_eq <;> intro i hi <;>
    simp only [BitVec.getLsbD_extractLsb', Fields.getLsbD_toWord, hi, decide_true, Bool.true_and]
  · rw [if_neg (by omega), if_neg (by omega), if_neg (by omega), show 28 + i - 28 = i by omega]
  · rw [if_neg (by omega), if_neg (by omega), if_pos (by omega), show 24 + i - 24 = i by omega]
  · rw [if_neg (by omega), if_pos (by omega), show 12 + i - 12 = i by omega]
  · rw [if_pos (by omega), Nat.zero_add]

@[simp] theorem Fields.toWord_ofWord (w : Word) : (Fields.ofWord w).toWord = w := by
  apply BitVec.eq_of_getLsbD_eq
  intro i hi
  simp only [Fields.getLsbD_toWord, Fields.ofWord, BitVec.getLsbD_extractLsb']
  split
  · simp [*]
  · split
    · rw [show 12 + (i - 12) = i by omega]; simp [show i - 12 < 12 by omega]
    · split
      · rw [show 24 + (i - 24) = i by omega]; simp [show i - 24 < 4 by omega]
      · rw [show 28 + (i - 28) = i by omega]; simp [show i - 28 < 4 by omega]

@[simp] theorem ArrSel.ofNumber_number (s : ArrSel) : ArrSel.ofNumber s.number = some s := by cases s <;> rfl

theorem ArrSel.number_of_ofNumber {k : BitVec 4} {s : ArrSel} (h : ArrSel.ofNumber k = some s) : s.number = k := by
  revert h; cases s <;> revert k <;> decide

@[simp] theorem Csr.ofNumber_number (c : Csr) : Csr.ofNumber c.number = some c := by cases c <;> rfl

@[simp] theorem Mode.ofBit_bit (m : Mode) : Mode.ofBit m.bit = m := by cases m <;> rfl

@[simp] theorem Mode.bit_ofBit (b : BitVec 1) : (Mode.ofBit b).bit = b := by revert b; decide

end Sys2Proof
end

