-- ==== Sys2Proof/Laws/State.lean ====
section
/-! SUPPORT. One lemma for each field of each update of the state, and what the views of the state read after it, so
that no proof unfolds a record update. -/

namespace Sys2Proof.Machine

/-! ### `State.setField` -/

section
variable (s : State) (x : BitVec 4) (y : BitVec 13)

@[simp] theorem State.setField_m : (s.setField x y).m = x := rfl
@[simp] theorem State.setField_prim : (s.setField x y).prim = y := rfl
@[simp] theorem State.setField_n : (s.setField x y).n = s.n := rfl
@[simp] theorem State.setField_t : (s.setField x y).t = s.t := rfl
@[simp] theorem State.setField_mode : (s.setField x y).mode = s.mode := rfl
@[simp] theorem State.setField_status : (s.setField x y).status = s.status := rfl
@[simp] theorem State.setField_exp : (s.setField x y).exp = s.exp := rfl
@[simp] theorem State.setField_log : (s.setField x y).log = s.log := rfl
@[simp] theorem State.setField_arrays : (s.setField x y).arrays = s.arrays := rfl
@[simp] theorem State.setField_l : (s.setField x y).l = s.l := rfl
@[simp] theorem State.setField_pos : (s.setField x y).pos = s.pos := rfl
@[simp] theorem State.setField_bd : (s.setField x y).bd = s.bd := rfl
@[simp] theorem State.setField_nroots : (s.setField x y).nroots = s.nroots := rfl
@[simp] theorem State.setField_ecnt : (s.setField x y).ecnt = s.ecnt := rfl
@[simp] theorem State.setField_res : (s.setField x y).res = s.res := rfl
@[simp] theorem State.setField_lasterr : (s.setField x y).lasterr = s.lasterr := rfl
@[simp] theorem State.setField_esticky : (s.setField x y).esticky = s.esticky := rfl
@[simp] theorem State.setField_pending : (s.setField x y).pending = s.pending := rfl
@[simp] theorem State.setField_responses : (s.setField x y).responses = s.responses := rfl
@[simp] theorem State.setField_arr (sel : ArrSel) : (s.setField x y).arr sel = s.arr sel := rfl
@[simp] theorem State.setField_coef (sel : ArrSel) (i : Nat) : (s.setField x y).coef sel i = s.coef sel i := rfl

end

/-! ### `State.setPrim` -/

section
variable (s : State) (x : BitVec 13)

@[simp] theorem State.setPrim_m : (s.setPrim x).m = s.m := rfl
@[simp] theorem State.setPrim_prim : (s.setPrim x).prim = x := rfl
@[simp] theorem State.setPrim_n : (s.setPrim x).n = s.n := rfl
@[simp] theorem State.setPrim_t : (s.setPrim x).t = s.t := rfl
@[simp] theorem State.setPrim_mode : (s.setPrim x).mode = s.mode := rfl
@[simp] theorem State.setPrim_status : (s.setPrim x).status = s.status := rfl
@[simp] theorem State.setPrim_exp : (s.setPrim x).exp = s.exp := rfl
@[simp] theorem State.setPrim_log : (s.setPrim x).log = s.log := rfl
@[simp] theorem State.setPrim_arrays : (s.setPrim x).arrays = s.arrays := rfl
@[simp] theorem State.setPrim_l : (s.setPrim x).l = s.l := rfl
@[simp] theorem State.setPrim_pos : (s.setPrim x).pos = s.pos := rfl
@[simp] theorem State.setPrim_bd : (s.setPrim x).bd = s.bd := rfl
@[simp] theorem State.setPrim_nroots : (s.setPrim x).nroots = s.nroots := rfl
@[simp] theorem State.setPrim_ecnt : (s.setPrim x).ecnt = s.ecnt := rfl
@[simp] theorem State.setPrim_res : (s.setPrim x).res = s.res := rfl
@[simp] theorem State.setPrim_lasterr : (s.setPrim x).lasterr = s.lasterr := rfl
@[simp] theorem State.setPrim_esticky : (s.setPrim x).esticky = s.esticky := rfl
@[simp] theorem State.setPrim_pending : (s.setPrim x).pending = s.pending := rfl
@[simp] theorem State.setPrim_responses : (s.setPrim x).responses = s.responses := rfl
@[simp] theorem State.setPrim_arr (sel : ArrSel) : (s.setPrim x).arr sel = s.arr sel := rfl
@[simp] theorem State.setPrim_coef (sel : ArrSel) (i : Nat) : (s.setPrim x).coef sel i = s.coef sel i := rfl
@[simp] theorem State.setPrim_gf : (s.setPrim x).gf = s.gf := rfl

end

/-! ### `State.setTables` -/

section
variable (s : State) (x y : List Cell)

@[simp] theorem State.setTables_m : (s.setTables x y).m = s.m := rfl
@[simp] theorem State.setTables_prim : (s.setTables x y).prim = s.prim := rfl
@[simp] theorem State.setTables_n : (s.setTables x y).n = s.n := rfl
@[simp] theorem State.setTables_t : (s.setTables x y).t = s.t := rfl
@[simp] theorem State.setTables_mode : (s.setTables x y).mode = s.mode := rfl
@[simp] theorem State.setTables_status : (s.setTables x y).status = s.status := rfl
@[simp] theorem State.setTables_exp : (s.setTables x y).exp = x := rfl
@[simp] theorem State.setTables_log : (s.setTables x y).log = y := rfl
@[simp] theorem State.setTables_arrays : (s.setTables x y).arrays = s.arrays := rfl
@[simp] theorem State.setTables_l : (s.setTables x y).l = s.l := rfl
@[simp] theorem State.setTables_pos : (s.setTables x y).pos = s.pos := rfl
@[simp] theorem State.setTables_bd : (s.setTables x y).bd = s.bd := rfl
@[simp] theorem State.setTables_nroots : (s.setTables x y).nroots = s.nroots := rfl
@[simp] theorem State.setTables_ecnt : (s.setTables x y).ecnt = s.ecnt := rfl
@[simp] theorem State.setTables_res : (s.setTables x y).res = s.res := rfl
@[simp] theorem State.setTables_lasterr : (s.setTables x y).lasterr = s.lasterr := rfl
@[simp] theorem State.setTables_esticky : (s.setTables x y).esticky = s.esticky := rfl
@[simp] theorem State.setTables_pending : (s.setTables x y).pending = s.pending := rfl
@[simp] theorem State.setTables_responses : (s.setTables x y).responses = s.responses := rfl
@[simp] theorem State.setTables_arr (sel : ArrSel) : (s.setTables x y).arr sel = s.arr sel := rfl
@[simp] theorem State.setTables_coef (sel : ArrSel) (i : Nat) : (s.setTables x y).coef sel i = s.coef sel i := rfl

end

/-! ### `State.setN` -/

section
variable (s : State) (x : BitVec 12)

@[simp] theorem State.setN_m : (s.setN x).m = s.m := rfl
@[simp] theorem State.setN_prim : (s.setN x).prim = s.prim := rfl
@[simp] theorem State.setN_n : (s.setN x).n = x := rfl
@[simp] theorem State.setN_t : (s.setN x).t = s.t := rfl
@[simp] theorem State.setN_mode : (s.setN x).mode = s.mode := rfl
@[simp] theorem State.setN_status : (s.setN x).status = s.status := rfl
@[simp] theorem State.setN_exp : (s.setN x).exp = s.exp := rfl
@[simp] theorem State.setN_log : (s.setN x).log = s.log := rfl
@[simp] theorem State.setN_arrays : (s.setN x).arrays = s.arrays := rfl
@[simp] theorem State.setN_l : (s.setN x).l = s.l := rfl
@[simp] theorem State.setN_pos : (s.setN x).pos = s.pos := rfl
@[simp] theorem State.setN_bd : (s.setN x).bd = s.bd := rfl
@[simp] theorem State.setN_nroots : (s.setN x).nroots = s.nroots := rfl
@[simp] theorem State.setN_ecnt : (s.setN x).ecnt = s.ecnt := rfl
@[simp] theorem State.setN_res : (s.setN x).res = s.res := rfl
@[simp] theorem State.setN_lasterr : (s.setN x).lasterr = s.lasterr := rfl
@[simp] theorem State.setN_esticky : (s.setN x).esticky = s.esticky := rfl
@[simp] theorem State.setN_pending : (s.setN x).pending = s.pending := rfl
@[simp] theorem State.setN_responses : (s.setN x).responses = s.responses := rfl
@[simp] theorem State.setN_arr (sel : ArrSel) : (s.setN x).arr sel = s.arr sel := rfl
@[simp] theorem State.setN_coef (sel : ArrSel) (i : Nat) : (s.setN x).coef sel i = s.coef sel i := rfl
@[simp] theorem State.setN_gf : (s.setN x).gf = s.gf := rfl

end

/-! ### `State.setT` -/

section
variable (s : State) (x : BitVec 11)

@[simp] theorem State.setT_m : (s.setT x).m = s.m := rfl
@[simp] theorem State.setT_prim : (s.setT x).prim = s.prim := rfl
@[simp] theorem State.setT_n : (s.setT x).n = s.n := rfl
@[simp] theorem State.setT_t : (s.setT x).t = x := rfl
@[simp] theorem State.setT_mode : (s.setT x).mode = s.mode := rfl
@[simp] theorem State.setT_status : (s.setT x).status = s.status := rfl
@[simp] theorem State.setT_exp : (s.setT x).exp = s.exp := rfl
@[simp] theorem State.setT_log : (s.setT x).log = s.log := rfl
@[simp] theorem State.setT_arrays : (s.setT x).arrays = s.arrays := rfl
@[simp] theorem State.setT_l : (s.setT x).l = s.l := rfl
@[simp] theorem State.setT_pos : (s.setT x).pos = s.pos := rfl
@[simp] theorem State.setT_bd : (s.setT x).bd = s.bd := rfl
@[simp] theorem State.setT_nroots : (s.setT x).nroots = s.nroots := rfl
@[simp] theorem State.setT_ecnt : (s.setT x).ecnt = s.ecnt := rfl
@[simp] theorem State.setT_res : (s.setT x).res = s.res := rfl
@[simp] theorem State.setT_lasterr : (s.setT x).lasterr = s.lasterr := rfl
@[simp] theorem State.setT_esticky : (s.setT x).esticky = s.esticky := rfl
@[simp] theorem State.setT_pending : (s.setT x).pending = s.pending := rfl
@[simp] theorem State.setT_responses : (s.setT x).responses = s.responses := rfl
@[simp] theorem State.setT_arr (sel : ArrSel) : (s.setT x).arr sel = s.arr sel := rfl
@[simp] theorem State.setT_coef (sel : ArrSel) (i : Nat) : (s.setT x).coef sel i = s.coef sel i := rfl
@[simp] theorem State.setT_gf : (s.setT x).gf = s.gf := rfl

end

/-! ### `State.setMode` -/

section
variable (s : State) (x : Mode)

@[simp] theorem State.setMode_m : (s.setMode x).m = s.m := rfl
@[simp] theorem State.setMode_prim : (s.setMode x).prim = s.prim := rfl
@[simp] theorem State.setMode_n : (s.setMode x).n = s.n := rfl
@[simp] theorem State.setMode_t : (s.setMode x).t = s.t := rfl
@[simp] theorem State.setMode_mode : (s.setMode x).mode = x := rfl
@[simp] theorem State.setMode_status : (s.setMode x).status = s.status := rfl
@[simp] theorem State.setMode_exp : (s.setMode x).exp = s.exp := rfl
@[simp] theorem State.setMode_log : (s.setMode x).log = s.log := rfl
@[simp] theorem State.setMode_arrays : (s.setMode x).arrays = s.arrays := rfl
@[simp] theorem State.setMode_l : (s.setMode x).l = s.l := rfl
@[simp] theorem State.setMode_pos : (s.setMode x).pos = s.pos := rfl
@[simp] theorem State.setMode_bd : (s.setMode x).bd = s.bd := rfl
@[simp] theorem State.setMode_nroots : (s.setMode x).nroots = s.nroots := rfl
@[simp] theorem State.setMode_ecnt : (s.setMode x).ecnt = s.ecnt := rfl
@[simp] theorem State.setMode_res : (s.setMode x).res = s.res := rfl
@[simp] theorem State.setMode_lasterr : (s.setMode x).lasterr = s.lasterr := rfl
@[simp] theorem State.setMode_esticky : (s.setMode x).esticky = s.esticky := rfl
@[simp] theorem State.setMode_pending : (s.setMode x).pending = s.pending := rfl
@[simp] theorem State.setMode_responses : (s.setMode x).responses = s.responses := rfl
@[simp] theorem State.setMode_arr (sel : ArrSel) : (s.setMode x).arr sel = s.arr sel := rfl
@[simp] theorem State.setMode_coef (sel : ArrSel) (i : Nat) : (s.setMode x).coef sel i = s.coef sel i := rfl
@[simp] theorem State.setMode_gf : (s.setMode x).gf = s.gf := rfl

end

/-! ### `State.setStatus` -/

section
variable (s : State) (x : Status)

@[simp] theorem State.setStatus_m : (s.setStatus x).m = s.m := rfl
@[simp] theorem State.setStatus_prim : (s.setStatus x).prim = s.prim := rfl
@[simp] theorem State.setStatus_n : (s.setStatus x).n = s.n := rfl
@[simp] theorem State.setStatus_t : (s.setStatus x).t = s.t := rfl
@[simp] theorem State.setStatus_mode : (s.setStatus x).mode = s.mode := rfl
@[simp] theorem State.setStatus_status : (s.setStatus x).status = x := rfl
@[simp] theorem State.setStatus_exp : (s.setStatus x).exp = s.exp := rfl
@[simp] theorem State.setStatus_log : (s.setStatus x).log = s.log := rfl
@[simp] theorem State.setStatus_arrays : (s.setStatus x).arrays = s.arrays := rfl
@[simp] theorem State.setStatus_l : (s.setStatus x).l = s.l := rfl
@[simp] theorem State.setStatus_pos : (s.setStatus x).pos = s.pos := rfl
@[simp] theorem State.setStatus_bd : (s.setStatus x).bd = s.bd := rfl
@[simp] theorem State.setStatus_nroots : (s.setStatus x).nroots = s.nroots := rfl
@[simp] theorem State.setStatus_ecnt : (s.setStatus x).ecnt = s.ecnt := rfl
@[simp] theorem State.setStatus_res : (s.setStatus x).res = s.res := rfl
@[simp] theorem State.setStatus_lasterr : (s.setStatus x).lasterr = s.lasterr := rfl
@[simp] theorem State.setStatus_esticky : (s.setStatus x).esticky = s.esticky := rfl
@[simp] theorem State.setStatus_pending : (s.setStatus x).pending = s.pending := rfl
@[simp] theorem State.setStatus_responses : (s.setStatus x).responses = s.responses := rfl
@[simp] theorem State.setStatus_arr (sel : ArrSel) : (s.setStatus x).arr sel = s.arr sel := rfl
@[simp] theorem State.setStatus_coef (sel : ArrSel) (i : Nat) : (s.setStatus x).coef sel i = s.coef sel i := rfl
@[simp] theorem State.setStatus_gf : (s.setStatus x).gf = s.gf := rfl

end

/-! ### `State.setArr` -/

section
variable (s : State) (x : ArrSel) (y : List Cell)

@[simp] theorem State.setArr_m : (s.setArr x y).m = s.m := rfl
@[simp] theorem State.setArr_prim : (s.setArr x y).prim = s.prim := rfl
@[simp] theorem State.setArr_n : (s.setArr x y).n = s.n := rfl
@[simp] theorem State.setArr_t : (s.setArr x y).t = s.t := rfl
@[simp] theorem State.setArr_mode : (s.setArr x y).mode = s.mode := rfl
@[simp] theorem State.setArr_status : (s.setArr x y).status = s.status := rfl
@[simp] theorem State.setArr_exp : (s.setArr x y).exp = s.exp := rfl
@[simp] theorem State.setArr_log : (s.setArr x y).log = s.log := rfl
@[simp] theorem State.setArr_arrays : (s.setArr x y).arrays = s.arrays.set x (Memory.store y) := rfl
@[simp] theorem State.setArr_l : (s.setArr x y).l = s.l := rfl
@[simp] theorem State.setArr_pos : (s.setArr x y).pos = s.pos := rfl
@[simp] theorem State.setArr_bd : (s.setArr x y).bd = s.bd := rfl
@[simp] theorem State.setArr_nroots : (s.setArr x y).nroots = s.nroots := rfl
@[simp] theorem State.setArr_ecnt : (s.setArr x y).ecnt = s.ecnt := rfl
@[simp] theorem State.setArr_res : (s.setArr x y).res = s.res := rfl
@[simp] theorem State.setArr_lasterr : (s.setArr x y).lasterr = s.lasterr := rfl
@[simp] theorem State.setArr_esticky : (s.setArr x y).esticky = s.esticky := rfl
@[simp] theorem State.setArr_pending : (s.setArr x y).pending = s.pending := rfl
@[simp] theorem State.setArr_responses : (s.setArr x y).responses = s.responses := rfl
@[simp] theorem State.setArr_gf : (s.setArr x y).gf = s.gf := rfl

end

/-! ### `State.setBm` -/

section
variable (s : State) (x y z : BitVec 12)

@[simp] theorem State.setBm_m : (s.setBm x y z).m = s.m := rfl
@[simp] theorem State.setBm_prim : (s.setBm x y z).prim = s.prim := rfl
@[simp] theorem State.setBm_n : (s.setBm x y z).n = s.n := rfl
@[simp] theorem State.setBm_t : (s.setBm x y z).t = s.t := rfl
@[simp] theorem State.setBm_mode : (s.setBm x y z).mode = s.mode := rfl
@[simp] theorem State.setBm_status : (s.setBm x y z).status = s.status := rfl
@[simp] theorem State.setBm_exp : (s.setBm x y z).exp = s.exp := rfl
@[simp] theorem State.setBm_log : (s.setBm x y z).log = s.log := rfl
@[simp] theorem State.setBm_arrays : (s.setBm x y z).arrays = s.arrays := rfl
@[simp] theorem State.setBm_l : (s.setBm x y z).l = x := rfl
@[simp] theorem State.setBm_pos : (s.setBm x y z).pos = y := rfl
@[simp] theorem State.setBm_bd : (s.setBm x y z).bd = z := rfl
@[simp] theorem State.setBm_nroots : (s.setBm x y z).nroots = s.nroots := rfl
@[simp] theorem State.setBm_ecnt : (s.setBm x y z).ecnt = s.ecnt := rfl
@[simp] theorem State.setBm_res : (s.setBm x y z).res = s.res := rfl
@[simp] theorem State.setBm_lasterr : (s.setBm x y z).lasterr = s.lasterr := rfl
@[simp] theorem State.setBm_esticky : (s.setBm x y z).esticky = s.esticky := rfl
@[simp] theorem State.setBm_pending : (s.setBm x y z).pending = s.pending := rfl
@[simp] theorem State.setBm_responses : (s.setBm x y z).responses = s.responses := rfl
@[simp] theorem State.setBm_arr (sel : ArrSel) : (s.setBm x y z).arr sel = s.arr sel := rfl
@[simp] theorem State.setBm_coef (sel : ArrSel) (i : Nat) : (s.setBm x y z).coef sel i = s.coef sel i := rfl
@[simp] theorem State.setBm_gf : (s.setBm x y z).gf = s.gf := rfl

end

/-! ### `State.setNroots` -/

section
variable (s : State) (x : BitVec 12)

@[simp] theorem State.setNroots_m : (s.setNroots x).m = s.m := rfl
@[simp] theorem State.setNroots_prim : (s.setNroots x).prim = s.prim := rfl
@[simp] theorem State.setNroots_n : (s.setNroots x).n = s.n := rfl
@[simp] theorem State.setNroots_t : (s.setNroots x).t = s.t := rfl
@[simp] theorem State.setNroots_mode : (s.setNroots x).mode = s.mode := rfl
@[simp] theorem State.setNroots_status : (s.setNroots x).status = s.status := rfl
@[simp] theorem State.setNroots_exp : (s.setNroots x).exp = s.exp := rfl
@[simp] theorem State.setNroots_log : (s.setNroots x).log = s.log := rfl
@[simp] theorem State.setNroots_arrays : (s.setNroots x).arrays = s.arrays := rfl
@[simp] theorem State.setNroots_l : (s.setNroots x).l = s.l := rfl
@[simp] theorem State.setNroots_pos : (s.setNroots x).pos = s.pos := rfl
@[simp] theorem State.setNroots_bd : (s.setNroots x).bd = s.bd := rfl
@[simp] theorem State.setNroots_nroots : (s.setNroots x).nroots = x := rfl
@[simp] theorem State.setNroots_ecnt : (s.setNroots x).ecnt = s.ecnt := rfl
@[simp] theorem State.setNroots_res : (s.setNroots x).res = s.res := rfl
@[simp] theorem State.setNroots_lasterr : (s.setNroots x).lasterr = s.lasterr := rfl
@[simp] theorem State.setNroots_esticky : (s.setNroots x).esticky = s.esticky := rfl
@[simp] theorem State.setNroots_pending : (s.setNroots x).pending = s.pending := rfl
@[simp] theorem State.setNroots_responses : (s.setNroots x).responses = s.responses := rfl
@[simp] theorem State.setNroots_arr (sel : ArrSel) : (s.setNroots x).arr sel = s.arr sel := rfl
@[simp] theorem State.setNroots_coef (sel : ArrSel) (i : Nat) : (s.setNroots x).coef sel i = s.coef sel i := rfl
@[simp] theorem State.setNroots_gf : (s.setNroots x).gf = s.gf := rfl

end

/-! ### `State.setEcnt` -/

section
variable (s : State) (x : BitVec 12)

@[simp] theorem State.setEcnt_m : (s.setEcnt x).m = s.m := rfl
@[simp] theorem State.setEcnt_prim : (s.setEcnt x).prim = s.prim := rfl
@[simp] theorem State.setEcnt_n : (s.setEcnt x).n = s.n := rfl
@[simp] theorem State.setEcnt_t : (s.setEcnt x).t = s.t := rfl
@[simp] theorem State.setEcnt_mode : (s.setEcnt x).mode = s.mode := rfl
@[simp] theorem State.setEcnt_status : (s.setEcnt x).status = s.status := rfl
@[simp] theorem State.setEcnt_exp : (s.setEcnt x).exp = s.exp := rfl
@[simp] theorem State.setEcnt_log : (s.setEcnt x).log = s.log := rfl
@[simp] theorem State.setEcnt_arrays : (s.setEcnt x).arrays = s.arrays := rfl
@[simp] theorem State.setEcnt_l : (s.setEcnt x).l = s.l := rfl
@[simp] theorem State.setEcnt_pos : (s.setEcnt x).pos = s.pos := rfl
@[simp] theorem State.setEcnt_bd : (s.setEcnt x).bd = s.bd := rfl
@[simp] theorem State.setEcnt_nroots : (s.setEcnt x).nroots = s.nroots := rfl
@[simp] theorem State.setEcnt_ecnt : (s.setEcnt x).ecnt = x := rfl
@[simp] theorem State.setEcnt_res : (s.setEcnt x).res = s.res := rfl
@[simp] theorem State.setEcnt_lasterr : (s.setEcnt x).lasterr = s.lasterr := rfl
@[simp] theorem State.setEcnt_esticky : (s.setEcnt x).esticky = s.esticky := rfl
@[simp] theorem State.setEcnt_pending : (s.setEcnt x).pending = s.pending := rfl
@[simp] theorem State.setEcnt_responses : (s.setEcnt x).responses = s.responses := rfl
@[simp] theorem State.setEcnt_arr (sel : ArrSel) : (s.setEcnt x).arr sel = s.arr sel := rfl
@[simp] theorem State.setEcnt_coef (sel : ArrSel) (i : Nat) : (s.setEcnt x).coef sel i = s.coef sel i := rfl
@[simp] theorem State.setEcnt_gf : (s.setEcnt x).gf = s.gf := rfl

end

/-! ### `State.setRes` -/

section
variable (s : State) (x : BitVec 16)

@[simp] theorem State.setRes_m : (s.setRes x).m = s.m := rfl
@[simp] theorem State.setRes_prim : (s.setRes x).prim = s.prim := rfl
@[simp] theorem State.setRes_n : (s.setRes x).n = s.n := rfl
@[simp] theorem State.setRes_t : (s.setRes x).t = s.t := rfl
@[simp] theorem State.setRes_mode : (s.setRes x).mode = s.mode := rfl
@[simp] theorem State.setRes_status : (s.setRes x).status = s.status := rfl
@[simp] theorem State.setRes_exp : (s.setRes x).exp = s.exp := rfl
@[simp] theorem State.setRes_log : (s.setRes x).log = s.log := rfl
@[simp] theorem State.setRes_arrays : (s.setRes x).arrays = s.arrays := rfl
@[simp] theorem State.setRes_l : (s.setRes x).l = s.l := rfl
@[simp] theorem State.setRes_pos : (s.setRes x).pos = s.pos := rfl
@[simp] theorem State.setRes_bd : (s.setRes x).bd = s.bd := rfl
@[simp] theorem State.setRes_nroots : (s.setRes x).nroots = s.nroots := rfl
@[simp] theorem State.setRes_ecnt : (s.setRes x).ecnt = s.ecnt := rfl
@[simp] theorem State.setRes_res : (s.setRes x).res = x := rfl
@[simp] theorem State.setRes_lasterr : (s.setRes x).lasterr = s.lasterr := rfl
@[simp] theorem State.setRes_esticky : (s.setRes x).esticky = s.esticky := rfl
@[simp] theorem State.setRes_pending : (s.setRes x).pending = s.pending := rfl
@[simp] theorem State.setRes_responses : (s.setRes x).responses = s.responses := rfl
@[simp] theorem State.setRes_arr (sel : ArrSel) : (s.setRes x).arr sel = s.arr sel := rfl
@[simp] theorem State.setRes_coef (sel : ArrSel) (i : Nat) : (s.setRes x).coef sel i = s.coef sel i := rfl
@[simp] theorem State.setRes_gf : (s.setRes x).gf = s.gf := rfl

end

/-! ### `State.setPending` -/

section
variable (s : State) (x : List HostEvent)

@[simp] theorem State.setPending_m : (s.setPending x).m = s.m := rfl
@[simp] theorem State.setPending_prim : (s.setPending x).prim = s.prim := rfl
@[simp] theorem State.setPending_n : (s.setPending x).n = s.n := rfl
@[simp] theorem State.setPending_t : (s.setPending x).t = s.t := rfl
@[simp] theorem State.setPending_mode : (s.setPending x).mode = s.mode := rfl
@[simp] theorem State.setPending_status : (s.setPending x).status = s.status := rfl
@[simp] theorem State.setPending_exp : (s.setPending x).exp = s.exp := rfl
@[simp] theorem State.setPending_log : (s.setPending x).log = s.log := rfl
@[simp] theorem State.setPending_arrays : (s.setPending x).arrays = s.arrays := rfl
@[simp] theorem State.setPending_l : (s.setPending x).l = s.l := rfl
@[simp] theorem State.setPending_pos : (s.setPending x).pos = s.pos := rfl
@[simp] theorem State.setPending_bd : (s.setPending x).bd = s.bd := rfl
@[simp] theorem State.setPending_nroots : (s.setPending x).nroots = s.nroots := rfl
@[simp] theorem State.setPending_ecnt : (s.setPending x).ecnt = s.ecnt := rfl
@[simp] theorem State.setPending_res : (s.setPending x).res = s.res := rfl
@[simp] theorem State.setPending_lasterr : (s.setPending x).lasterr = s.lasterr := rfl
@[simp] theorem State.setPending_esticky : (s.setPending x).esticky = s.esticky := rfl
@[simp] theorem State.setPending_pending : (s.setPending x).pending = x := rfl
@[simp] theorem State.setPending_responses : (s.setPending x).responses = s.responses := rfl
@[simp] theorem State.setPending_arr (sel : ArrSel) : (s.setPending x).arr sel = s.arr sel := rfl
@[simp] theorem State.setPending_coef (sel : ArrSel) (i : Nat) : (s.setPending x).coef sel i = s.coef sel i := rfl
@[simp] theorem State.setPending_gf : (s.setPending x).gf = s.gf := rfl

end

/-! ### `State.respond` -/

section
variable (s : State) (x : Word)

@[simp] theorem State.respond_m : (s.respond x).m = s.m := rfl
@[simp] theorem State.respond_prim : (s.respond x).prim = s.prim := rfl
@[simp] theorem State.respond_n : (s.respond x).n = s.n := rfl
@[simp] theorem State.respond_t : (s.respond x).t = s.t := rfl
@[simp] theorem State.respond_mode : (s.respond x).mode = s.mode := rfl
@[simp] theorem State.respond_status : (s.respond x).status = s.status := rfl
@[simp] theorem State.respond_exp : (s.respond x).exp = s.exp := rfl
@[simp] theorem State.respond_log : (s.respond x).log = s.log := rfl
@[simp] theorem State.respond_arrays : (s.respond x).arrays = s.arrays := rfl
@[simp] theorem State.respond_l : (s.respond x).l = s.l := rfl
@[simp] theorem State.respond_pos : (s.respond x).pos = s.pos := rfl
@[simp] theorem State.respond_bd : (s.respond x).bd = s.bd := rfl
@[simp] theorem State.respond_nroots : (s.respond x).nroots = s.nroots := rfl
@[simp] theorem State.respond_ecnt : (s.respond x).ecnt = s.ecnt := rfl
@[simp] theorem State.respond_res : (s.respond x).res = s.res := rfl
@[simp] theorem State.respond_lasterr : (s.respond x).lasterr = s.lasterr := rfl
@[simp] theorem State.respond_esticky : (s.respond x).esticky = s.esticky := rfl
@[simp] theorem State.respond_pending : (s.respond x).pending = s.pending := rfl
@[simp] theorem State.respond_responses : (s.respond x).responses = s.responses ++ [x] := rfl
@[simp] theorem State.respond_arr (sel : ArrSel) : (s.respond x).arr sel = s.arr sel := rfl
@[simp] theorem State.respond_coef (sel : ArrSel) (i : Nat) : (s.respond x).coef sel i = s.coef sel i := rfl
@[simp] theorem State.respond_gf : (s.respond x).gf = s.gf := rfl

end

/-! ### `State.recordFault` -/

section
variable (s : State) (x : FaultKind)

@[simp] theorem State.recordFault_m : (s.recordFault x).m = s.m := rfl
@[simp] theorem State.recordFault_prim : (s.recordFault x).prim = s.prim := rfl
@[simp] theorem State.recordFault_n : (s.recordFault x).n = s.n := rfl
@[simp] theorem State.recordFault_t : (s.recordFault x).t = s.t := rfl
@[simp] theorem State.recordFault_mode : (s.recordFault x).mode = s.mode := rfl
@[simp] theorem State.recordFault_status : (s.recordFault x).status = s.status := rfl
@[simp] theorem State.recordFault_exp : (s.recordFault x).exp = s.exp := rfl
@[simp] theorem State.recordFault_log : (s.recordFault x).log = s.log := rfl
@[simp] theorem State.recordFault_arrays : (s.recordFault x).arrays = s.arrays := rfl
@[simp] theorem State.recordFault_l : (s.recordFault x).l = s.l := rfl
@[simp] theorem State.recordFault_pos : (s.recordFault x).pos = s.pos := rfl
@[simp] theorem State.recordFault_bd : (s.recordFault x).bd = s.bd := rfl
@[simp] theorem State.recordFault_nroots : (s.recordFault x).nroots = s.nroots := rfl
@[simp] theorem State.recordFault_ecnt : (s.recordFault x).ecnt = s.ecnt := rfl
@[simp] theorem State.recordFault_res : (s.recordFault x).res = s.res := rfl
@[simp] theorem State.recordFault_lasterr : (s.recordFault x).lasterr = x.code := rfl
@[simp] theorem State.recordFault_esticky : (s.recordFault x).esticky = s.esticky ||| ((1 : BitVec 16) <<< x.code.toNat) := rfl
@[simp] theorem State.recordFault_pending : (s.recordFault x).pending = s.pending := rfl
@[simp] theorem State.recordFault_responses : (s.recordFault x).responses = s.responses := rfl
@[simp] theorem State.recordFault_arr (sel : ArrSel) : (s.recordFault x).arr sel = s.arr sel := rfl
@[simp] theorem State.recordFault_coef (sel : ArrSel) (i : Nat) : (s.recordFault x).coef sel i = s.coef sel i := rfl
@[simp] theorem State.recordFault_gf : (s.recordFault x).gf = s.gf := rfl

end

/-! ### `State.answered` -/

section
variable (s : State) (x : BitVec 16)

@[simp] theorem State.answered_m : (s.answered x).m = s.m := rfl
@[simp] theorem State.answered_prim : (s.answered x).prim = s.prim := rfl
@[simp] theorem State.answered_n : (s.answered x).n = s.n := rfl
@[simp] theorem State.answered_t : (s.answered x).t = s.t := rfl
@[simp] theorem State.answered_mode : (s.answered x).mode = s.mode := rfl
@[simp] theorem State.answered_status : (s.answered x).status = s.status := rfl
@[simp] theorem State.answered_exp : (s.answered x).exp = s.exp := rfl
@[simp] theorem State.answered_log : (s.answered x).log = s.log := rfl
@[simp] theorem State.answered_arrays : (s.answered x).arrays = s.arrays := rfl
@[simp] theorem State.answered_l : (s.answered x).l = s.l := rfl
@[simp] theorem State.answered_pos : (s.answered x).pos = s.pos := rfl
@[simp] theorem State.answered_bd : (s.answered x).bd = s.bd := rfl
@[simp] theorem State.answered_nroots : (s.answered x).nroots = s.nroots := rfl
@[simp] theorem State.answered_ecnt : (s.answered x).ecnt = s.ecnt := rfl
@[simp] theorem State.answered_res : (s.answered x).res = x := rfl
@[simp] theorem State.answered_lasterr : (s.answered x).lasterr = s.lasterr := rfl
@[simp] theorem State.answered_esticky : (s.answered x).esticky = s.esticky := rfl
@[simp] theorem State.answered_pending : (s.answered x).pending = s.pending := rfl
@[simp] theorem State.answered_responses : (s.answered x).responses = s.responses ++ [x.setWidth 32] := rfl
@[simp] theorem State.answered_arr (sel : ArrSel) : (s.answered x).arr sel = s.arr sel := rfl
@[simp] theorem State.answered_coef (sel : ArrSel) (i : Nat) : (s.answered x).coef sel i = s.coef sel i := rfl
@[simp] theorem State.answered_gf : (s.answered x).gf = s.gf := rfl

end

/-! ### `State.faulted` -/

section
variable (s : State) (x : BitVec 4)

@[simp] theorem State.faulted_m : (s.faulted x).m = s.m := rfl
@[simp] theorem State.faulted_prim : (s.faulted x).prim = s.prim := rfl
@[simp] theorem State.faulted_n : (s.faulted x).n = s.n := rfl
@[simp] theorem State.faulted_t : (s.faulted x).t = s.t := rfl
@[simp] theorem State.faulted_mode : (s.faulted x).mode = s.mode := rfl
@[simp] theorem State.faulted_status : (s.faulted x).status = s.status := rfl
@[simp] theorem State.faulted_exp : (s.faulted x).exp = s.exp := rfl
@[simp] theorem State.faulted_log : (s.faulted x).log = s.log := rfl
@[simp] theorem State.faulted_arrays : (s.faulted x).arrays = s.arrays := rfl
@[simp] theorem State.faulted_l : (s.faulted x).l = s.l := rfl
@[simp] theorem State.faulted_pos : (s.faulted x).pos = s.pos := rfl
@[simp] theorem State.faulted_bd : (s.faulted x).bd = s.bd := rfl
@[simp] theorem State.faulted_nroots : (s.faulted x).nroots = s.nroots := rfl
@[simp] theorem State.faulted_ecnt : (s.faulted x).ecnt = s.ecnt := rfl
@[simp] theorem State.faulted_res : (s.faulted x).res = s.res := rfl
@[simp] theorem State.faulted_lasterr : (s.faulted x).lasterr = x := rfl
@[simp] theorem State.faulted_esticky : (s.faulted x).esticky = s.esticky ||| (1 <<< x.toNat) := rfl
@[simp] theorem State.faulted_pending : (s.faulted x).pending = s.pending := rfl
@[simp] theorem State.faulted_responses : (s.faulted x).responses = s.responses ++ [x.setWidth 32 <<< 28] := rfl
@[simp] theorem State.faulted_arr (sel : ArrSel) : (s.faulted x).arr sel = s.arr sel := rfl
@[simp] theorem State.faulted_coef (sel : ArrSel) (i : Nat) : (s.faulted x).coef sel i = s.coef sel i := rfl
@[simp] theorem State.faulted_gf : (s.faulted x).gf = s.gf := rfl

end

/-! ### Array registers -/

@[simp] theorem ArrayFile.get_set_same (f : ArrayFile) (sel : ArrSel) (mem : Memory) : (f.set sel mem).get sel = mem := by
  cases sel <;> rfl

@[simp] theorem ArrayFile.get_set_other (f : ArrayFile) {sel sel' : ArrSel} (mem : Memory) (h : sel' ≠ sel) :
    (f.set sel mem).get sel' = f.get sel' := by
  cases sel <;> cases sel' <;> first | rfl | exact absurd rfl h

@[simp] theorem State.setArr_arr_same (s : State) (sel : ArrSel) (p : List Cell) :
    (s.setArr sel p).arr sel = Memory.store p := ArrayFile.get_set_same _ _ _

@[simp] theorem State.setArr_arr_other (s : State) {sel sel' : ArrSel} (p : List Cell) (h : sel' ≠ sel) :
    (s.setArr sel p).arr sel' = s.arr sel' := ArrayFile.get_set_other _ _ h

theorem State.setArr_arr (s : State) (sel sel' : ArrSel) (p : List Cell) :
    (s.setArr sel p).arr sel' = if sel' = sel then Memory.store p else s.arr sel' := by
  split
  · subst_vars; simp
  · simp [*]

/-! ### The reset state and the response of `RESET` -/

@[simp] theorem State.resetCore_eq (s : State) :
    s.resetCore = { State.reset with pending := s.pending, responses := s.responses } := rfl

@[simp] theorem State.reset_arr (sel : ArrSel) : State.reset.arr sel = [] := by cases sel <;> rfl

/-! ### The two forms of an outcome -/

theorem State.faulted_eq (s : State) (k : FaultKind) :
    (s.recordFault k).respond k.word = s.faulted k.code := by
  cases k <;> simp [State.recordFault, State.respond, State.faulted, FaultKind.word, FaultKind.code]

theorem okWord_eq (v : BitVec 16) : okWord v = v.setWidth 32 := by
  apply BitVec.eq_of_getLsbD_eq
  intro i hi
  simp only [okWord, BitVec.getLsbD_append, BitVec.getLsbD_setWidth]
  by_cases h : i < 16 <;> simp [h, hi]
  exact BitVec.getLsbD_of_ge v i (by omega)

theorem State.answered_eq (s : State) (v : BitVec 16) : (s.setRes v).respond (okWord v) = s.answered v := by
  rw [okWord_eq]; rfl

theorem ArrayFile.ext_get {f f' : ArrayFile} (h : ∀ sel, f.get sel = f'.get sel) : f = f' := by
  cases f; cases f'
  have h0 := h .cw; have h1 := h .g; have h2 := h .syn; have h3 := h .lam; have h4 := h .bp
  have h5 := h .omg; have h6 := h .qt; have h7 := h .rm; have h8 := h .epos; have h9 := h .eval
  simp_all only [ArrayFile.get]

/-- Nothing is excepted, so the states are equal. -/
theorem KeepsBut.eq_of_nil {base t : State} (h : KeepsBut base t []) : t = base := by
  have ha : t.arrays = base.arrays := ArrayFile.ext_get fun sel => h.2 sel (by simp)
  have h1 := h.1
  rwa [← ha] at h1

theorem KeepsBut.refl (s : State) (sels : List ArrSel) : KeepsBut s s sels := ⟨rfl, fun _ _ => rfl⟩

/-- One whole-array write changes that array register at most. -/
theorem KeepsBut.setArr {base t : State} {sels : List ArrSel} (h : KeepsBut base t sels) (sel : ArrSel)
    (p : List Cell) : KeepsBut base (t.setArr sel p) (sel :: sels) := by
  refine ⟨h.1, fun sel' hs => ?_⟩
  simp only [List.mem_cons, not_or] at hs
  rw [State.setArr_arr_other _ _ hs.1, h.2 _ hs.2]

end Sys2Proof.Machine
end

