-- ==== Sys2Proof/Laws/Ops.lean ====
section
/-! SUPPORT. What success, a fault and a list of checks can do, said once: every command is an `attempt`, so every claim
about a command goes through these. -/

namespace Sys2Proof.Machine

theorem succeed_eq (v : BitVec 16) (s : State) : succeed v s = .next (s.answered v) := by
  rw [succeed, State.answered_eq]

theorem raise_eq (k : FaultKind) (s : State) : raise k s = .next (s.faulted k.code) := by
  rw [raise, State.faulted_eq]

theorem FaultKind.code_ne_zero (k : FaultKind) : k.code ≠ 0 := by cases k <;> decide

theorem FaultKind.code_injective {k k' : FaultKind} (h : k.code = k'.code) : k = k' := by
  revert h; cases k <;> cases k' <;> decide

@[simp] theorem firstFailing_nil : firstFailing [] = none := rfl

@[simp] theorem firstFailing_cons (b : Bool) (k : FaultKind) (cs : List (Bool × FaultKind)) :
    firstFailing ((b, k) :: cs) = if b then some k else firstFailing cs := rfl

theorem firstFailing_append (cs ds : List (Bool × FaultKind)) :
    firstFailing (cs ++ ds) = (firstFailing cs).or (firstFailing ds) := by
  induction cs with
  | nil => simp
  | cons c cs ih => obtain ⟨b, k⟩ := c; cases b <;> simp [ih]

/-- All checks pass exactly when none of them fails. -/
theorem firstFailing_eq_none_iff (cs : List (Bool × FaultKind)) :
    firstFailing cs = none ↔ ∀ c ∈ cs, c.1 = false := by
  induction cs with
  | nil => simp
  | cons c cs ih => obtain ⟨b, k⟩ := c; cases b <;> simp [ih]

/-- The kind raised is that of a check of the list that fails. -/
theorem firstFailing_mem {cs : List (Bool × FaultKind)} {k : FaultKind} (h : firstFailing cs = some k) :
    (true, k) ∈ cs := by
  induction cs with
  | nil => simp at h
  | cons c cs ih => obtain ⟨b, k'⟩ := c; cases b <;> simp_all

theorem attempt_of_none {cs : List (Bool × FaultKind)} (h : firstFailing cs = none) (s : State) (f : State → Result) :
    attempt cs s f = f s := by
  rw [attempt, h]

theorem attempt_of_some {cs : List (Bool × FaultKind)} {k : FaultKind} (h : firstFailing cs = some k) (s : State)
    (f : State → Result) : attempt cs s f = .next (s.faulted k.code) := by
  rw [attempt, h, ← raise_eq]

/-- Everything a command can do: fault with the kind of its first failing check, or take its effect. -/
theorem attempt_cases {cs : List (Bool × FaultKind)} {s t : State} {f : State → Result}
    (h : attempt cs s f = .next t) :
    (∃ k, firstFailing cs = some k ∧ t = s.faulted k.code) ∨ (firstFailing cs = none ∧ f s = .next t) := by
  cases hf : firstFailing cs with
  | none => exact .inr ⟨rfl, by rwa [attempt_of_none hf] at h⟩
  | some k =>
    rw [attempt_of_some hf] at h
    exact .inl ⟨k, rfl, by injection h with h; exact h.symm⟩

/-- A command whose effect is a success with no fault on the way ends in a next state in every case. -/
theorem attempt_next (cs : List (Bool × FaultKind)) (s : State) (f : State → Result) (hf : ∃ t, f s = .next t) :
    ∃ t, attempt cs s f = .next t := by
  cases h : firstFailing cs with
  | none => rw [attempt_of_none h]; exact hf
  | some k => exact ⟨_, attempt_of_some h s f⟩

/-! ### Telling a fault from a success by the response -/

theorem State.faulted_responses_ne {s : State} {c : BitVec 4} {v : BitVec 16} (hc : c ≠ 0) :
    s.responses ++ [(v.setWidth 32 : Word)] ≠ (s.faulted c).responses := by
  intro h
  have h := (List.append_cancel_left h)
  injection h with h _
  apply hc
  have hb : ((v.setWidth 32 : Word).extractLsb' 28 4) = ((c.setWidth 32 : Word) <<< 28).extractLsb' 28 4 := by rw [h]
  apply BitVec.eq_of_getLsbD_eq
  intro i hi
  have := congrArg (fun x : BitVec 4 => x.getLsbD i) hb
  simp only [BitVec.getLsbD_extractLsb', BitVec.getLsbD_shiftLeft, BitVec.getLsbD_setWidth] at this
  have hv : v.getLsbD (28 + i) = false := BitVec.getLsbD_of_ge v _ (by omega)
  have e1 : 28 + i < 32 := by omega
  have e2 : 28 + i - 28 = i := by omega
  have e3 : i < 32 := by omega
  simp only [hi, decide_true, Bool.true_and, e1, hv, Bool.and_false, e2, e3,
    show ¬ 28 + i < 28 by omega, decide_false, Bool.not_false] at this
  simpa using this.symm

/-- No success is a fault. -/
theorem State.answered_ne_faulted (s s' : State) (v : BitVec 16) {c : BitVec 4} (hc : c ≠ 0)
    (h : s'.responses = s.responses) : s'.answered v ≠ s.faulted c := by
  intro he
  have hr : (s'.answered v).responses = (s.faulted c).responses := by rw [he]
  rw [State.answered_responses, h] at hr
  exact State.faulted_responses_ne hc hr

theorem State.faulted_injective {s : State} {c c' : BitVec 4} (h : s.faulted c = s.faulted c') : c = c' :=
  congrArg State.lasterr h

end Sys2Proof.Machine
end

