-- ==== Sys2Proof/Laws/Operands.lean ====
section
/-! SUPPORT. The checks that several commands share, as the spec's conditions on the state. -/

namespace Sys2Proof.Machine

theorem State.outOfField_eq_false_iff (s : State) (a : Cell) : s.outOfField a = false ↔ s.isElement a := by
  simp [State.outOfField, State.isElement]

theorem State.outOfField_eq_true_iff (s : State) (a : Cell) : s.outOfField a = true ↔ ¬s.isElement a := by
  simp [State.outOfField, State.isElement]

theorem State.gf_ord (s : State) : s.gf.ord = s.ord := rfl

theorem cellValue_eq (a : Cell) : cellValue a = resultOf a.toNat := by
  apply BitVec.eq_of_toNat_eq
  simp [cellValue, resultOf]

theorem countValue_eq (k : Nat) : countValue k = resultOf k := rfl

/-- `GeomOK`: what its checks answer, case by case (R184). -/
theorem State.firstFailing_geomChecks (s : State) :
    (s.status.fv = false → firstFailing s.geomChecks = some .notReady) ∧
    (s.status.fv = true → ¬s.GeomOK → firstFailing s.geomChecks = some .invalidParameters) ∧
    (s.GeomOK → firstFailing s.geomChecks = none) := by
  refine ⟨fun h => ?_, fun hf hg => ?_, fun ⟨hf, hn, hm⟩ => ?_⟩
  · simp [State.geomChecks, State.needField, h]
  · simp only [State.GeomOK, State.ord] at hg
    simp only [State.geomChecks, State.needField, hf, Bool.not_true, firstFailing_cons, firstFailing_nil]
    by_cases hn : s.n = 0
    · simp [hn]
    · have : s.mode = .bch ∧ s.n.toNat ≠ 2 ^ s.m.toNat - 1 := by
        by_contra hc
        exact hg ⟨hf, hn, fun hm => by by_contra hne; exact hc ⟨hm, hne⟩⟩
      simp [this.1, this.2]
  · simp only [State.ord] at hm
    simp only [State.geomChecks, State.needField, hf, Bool.not_true, firstFailing_cons, firstFailing_nil]
    cases hmode : s.mode with
    | bch => simpa [hm hmode] using hn
    | rs => simpa using hn

/-- `DecOK`: what its checks answer, case by case (R185). -/
theorem State.firstFailing_decChecks (s : State) :
    (s.status.fv = false → firstFailing s.decChecks = some .notReady) ∧
    (s.status.fv = true → ¬s.DecOK → firstFailing s.decChecks = some .invalidParameters) ∧
    (s.DecOK → firstFailing s.decChecks = none) := by
  obtain ⟨g1, g2, g3⟩ := s.firstFailing_geomChecks
  simp only [State.decChecks, firstFailing_append]
  refine ⟨fun h => by simp [g1 h], fun hf hd => ?_, fun ⟨hg, ht, hb⟩ => ?_⟩
  · by_cases hg : s.GeomOK
    · rw [g3 hg, Option.none_or]
      have : s.t = 0 ∨ s.n.toNat - 1 < 2 * s.t.toNat := by
        by_contra hc
        exact hd ⟨hg, fun h => hc (.inl h), by omega⟩
      simpa [or_iff_not_imp_left] using this
    · simp [g2 hf hg]
  · rw [g3 hg, Option.none_or]
    simpa [hb] using ht

theorem notBinary_eq_false_iff (cells : List Cell) : notBinary cells = false ↔ ∀ i, (Memory.read cells i).toNat ≤ 1 := by
  simp only [notBinary, List.any_eq_false, decide_eq_true_eq, Nat.not_lt]
  constructor
  · intro h i
    by_cases hi : i < cells.length
    · have := h _ (List.getElem_mem hi)
      simpa [Memory.read, List.getD_eq_getElem?_getD, hi] using this
    · rw [Memory.read_of_length_le (by omega)]; decide
  · intro h c hc
    obtain ⟨i, hi, rfl⟩ := List.getElem_of_mem hc
    have := h i
    simpa [Memory.read, List.getD_eq_getElem?_getD, hi] using this

/-- The binary check of `SYND` and `DECODE` (R202, R231). -/
theorem State.needBits_eq_false_iff (s : State) : s.needBits.1 = false ↔ s.BitsOK := by
  simp only [State.needBits, State.BitsOK]
  cases hm : s.mode with
  | rs => simp
  | bch =>
    have hb : ((Mode.bch == Mode.bch) && notBinary s.received) = notBinary s.received := by simp
    rw [hb, notBinary_eq_false_iff]
    simp only [State.received, Memory.read_take, forall_const, State.coef, State.arr, ArrayFile.get]
    constructor
    · intro h i hi; have := h i; rwa [if_pos hi] at this
    · intro h i; split
      · exact h i ‹_›
      · decide

theorem szFlag_eq_true_iff (cells : List Cell) : szFlag cells = true ↔ ∀ c ∈ cells, c = 0 := by
  simp [szFlag]

/-- The decoder failure conditions (R230). -/
theorem State.failed_eq_true_iff (s : State) : s.status.failed s.mode = true ↔ s.Failed := by
  simp only [Status.failed, State.Failed, Bool.or_eq_true, Bool.and_eq_true, beq_iff_eq, or_assoc]

end Sys2Proof.Machine
end

