-- ==== Sys2Proof/Laws/PerInstr.lean ====
section
/-! SUPPORT. The family FieldsRoundTrip of LAWS.json: decoding the fields that encode a command gives the command back,
one lemma for each constructor. -/

namespace Sys2Proof

/-! ### Selector fields and immediates -/

@[simp] theorem selectorField_pd (pd pa pb : BitVec 4) : (selectorField pd pa pb).extractLsb' 8 4 = pd := by
  revert pd pa pb; decide +kernel

@[simp] theorem selectorField_pa (pd pa pb : BitVec 4) : (selectorField pd pa pb).extractLsb' 4 4 = pa := by
  revert pd pa pb; decide +kernel

@[simp] theorem selectorField_pb (pd pa pb : BitVec 4) : (selectorField pd pa pb).extractLsb' 0 4 = pb := by
  revert pd pa pb; decide +kernel

/-- An immediate is the concatenation of its two fields (R83). -/
@[simp] theorem immFields_imm (grp fn : BitVec 4) (imm : BitVec 24) : (immFields grp fn imm).imm = imm := by
  apply BitVec.eq_of_getLsbD_eq
  intro i hi
  simp only [immFields, Fields.imm, BitVec.getLsbD_append, BitVec.getLsbD_extractLsb']
  split
  · simp [*]
  · rw [show 12 + (i - 12) = i by omega]; simp [show i - 12 < 12 by omega]

@[simp] theorem withSel_number (s : ArrSel) (f : ArrSel → Decoded) : withSel s.number f = f s := by
  simp [withSel]

@[simp] theorem withCsr_number (c : Csr) (f : Csr → Decoded) : withCsr c.number f = f c := by
  simp [withCsr]

@[simp] theorem needZero_true (i : Decoded) : needZero true i = i := rfl

/-- Format P3 reads back its three selectors (R85). -/
theorem formatP3_selectorField (grp fn : BitVec 4) (pd pa pb : ArrSel) (mk : ArrSel → ArrSel → ArrSel → Instr) :
    formatP3 ⟨grp, fn, selectorField pd.number pa.number pb.number, 0⟩ mk = .ok (mk pd pa pb) := by
  rw [formatP3]
  show needZero true _ = _
  rw [needZero_true]
  simp only [Fields.pd, Fields.pa, Fields.pb, selectorField_pd, selectorField_pa, selectorField_pb, withSel_number]

namespace Laws.FieldsRoundTrip

/-- Decoding the command's fields gives the command. -/
def Statement (i : Instr) : Prop := decodeFields (encodeFields i) = .ok i

theorem nop : Statement (.nop) := rfl

theorem reset : Statement (.reset) := rfl

theorem rdcsr (c : Csr) : Statement (.rdcsr c) := by cases c <;> rfl

theorem fsetm (m : BitVec 24) : Statement (.fsetm m) := congrArg (fun x => Except.ok (Instr.fsetm x)) (immFields_imm 1 0 m)

theorem fsetp (p : BitVec 13) : Statement (.fsetp p) := by
  have h : (immFields 1 1 (p.setWidth 24)).imm = p.setWidth 24 := immFields_imm _ _ _
  have hz : (p.setWidth 24).extractLsb' 13 11 = 0#11 := by
    apply BitVec.eq_of_getLsbD_eq
    intro i hi
    simp
  have hp : (p.setWidth 24).extractLsb' 0 13 = p := by
    apply BitVec.eq_of_getLsbD_eq
    intro i hi
    simp [hi, show i < 24 by omega]
  have hd : decodeFields (immFields 1 1 (p.setWidth 24)) = decodeFld (immFields 1 1 (p.setWidth 24)) := rfl
  have hf : decodeFld (immFields 1 1 (p.setWidth 24)) =
      needZero ((immFields 1 1 (p.setWidth 24)).imm.extractLsb' 13 11 == 0)
        (.ok (.fsetp ((immFields 1 1 (p.setWidth 24)).imm.extractLsb' 0 13))) := rfl
  rw [Statement, encodeFields, hd, hf, h, hz, hp]
  rfl

theorem finit : Statement (.finit) := rfl

theorem fadd (a b : Cell) : Statement (.fadd a b) := rfl

theorem fmul (a b : Cell) : Statement (.fmul a b) := rfl

theorem fdiv (a b : Cell) : Statement (.fdiv a b) := rfl

theorem finv (a : Cell) : Statement (.finv a) := rfl

theorem fpow (a : Cell) (e : BitVec 12) : Statement (.fpow a e) := rfl

theorem fisprim (a : Cell) : Statement (.fisprim a) := rfl

theorem fexp (i : BitVec 12) : Statement (.fexp i) := rfl

theorem flog (a : Cell) : Statement (.flog a) := rfl

theorem pwr (sel : ArrSel) (i : BitVec 12) (c : Cell) : Statement (.pwr sel i c) := by cases sel <;> rfl

theorem prd (sel : ArrSel) (i : BitVec 12) : Statement (.prd sel i) := by cases sel <;> rfl

theorem pclr (pd : ArrSel) : Statement (.pclr pd) := by
  cases pd <;> rfl

theorem pmov (pd pa : ArrSel) : Statement (.pmov pd pa) := by
  cases pd <;> cases pa <;> rfl

theorem pdeg (pa : ArrSel) : Statement (.pdeg pa) := by
  cases pa <;> rfl

theorem pisz (pa : ArrSel) : Statement (.pisz pa) := by
  cases pa <;> rfl

theorem padd (pd pa pb : ArrSel) : Statement (.padd pd pa pb) :=
  formatP3_selectorField 4 4 pd pa pb .padd

theorem pmul (pd pa pb : ArrSel) : Statement (.pmul pd pa pb) :=
  formatP3_selectorField 4 5 pd pa pb .pmul

theorem pdivmod (pa pb : ArrSel) : Statement (.pdivmod pa pb) := by
  cases pa <;> cases pb <;> rfl

theorem peval (pa : ArrSel) (x : Cell) : Statement (.peval pa x) := by
  have hd : decodeFields ⟨4, 7, selectorField 0 pa.number 0, x⟩ =
      needZero ((selectorField 0 pa.number 0).extractLsb' 8 4 == 0 && (selectorField 0 pa.number 0).extractLsb' 0 4 == 0)
        (withSel ((selectorField 0 pa.number 0).extractLsb' 4 4) fun pa => .ok (.peval pa x)) := rfl
  rw [Statement, encodeFields, hd, selectorField_pd, selectorField_pb, selectorField_pa, withSel_number]
  rfl

theorem csetn (n : BitVec 12) : Statement (.csetn n) := rfl

theorem csett (t : BitVec 12) : Statement (.csett t) := rfl

theorem csetmode (mode : Mode) : Statement (.csetmode mode) := by cases mode <;> rfl

theorem geng (rho : BitVec 12) : Statement (.geng rho) := rfl

theorem genb (t : BitVec 12) : Statement (.genb t) := rfl

theorem enc : Statement (.enc) := rfl

theorem synd : Statement (.synd) := rfl

theorem bma : Statement (.bma) := rfl

theorem chien : Statement (.chien) := rfl

theorem omega : Statement (.omega) := rfl

theorem forney : Statement (.forney) := rfl

theorem correct : Statement (.correct) := rfl

theorem decode : Statement (.decode) := rfl

end Laws.FieldsRoundTrip

end Sys2Proof
end

