-- ==== Sys2Proof/Laws/Poly.lean ====
section
/-! SUPPORT. The polynomial functions on lists, coefficient by coefficient, in every state and for every table. -/

namespace Sys2Proof.Machine

/-! ### The XOR of a range -/

theorem xorSum_congr {n : Nat} {f g : Nat → Cell} (h : ∀ i, i < n → f i = g i) : xorSum n f = xorSum n g := by
  induction n with
  | zero => rfl
  | succ n ih => rw [xorSum, xorSum, ih fun i hi => h i (by omega), h n (by omega)]

@[simp] theorem xorSum_zero_fun (n : Nat) : xorSum n (fun _ => 0#12) = 0#12 := by
  induction n with
  | zero => rfl
  | succ n ih => rw [xorSum, ih]; decide

/-- The first term of an XOR, split off. -/
theorem xorSum_succ_left (n : Nat) (f : Nat → Cell) : xorSum (n + 1) f = f 0 ^^^ xorSum n (fun i => f (i + 1)) := by
  induction n with
  | zero => simp [xorSum]
  | succ n ih => rw [xorSum, ih, xorSum, BitVec.xor_assoc]

theorem xorSum_xor (n : Nat) (f g : Nat → Cell) : xorSum n (fun i => f i ^^^ g i) = xorSum n f ^^^ xorSum n g := by
  induction n with
  | zero => simp [xorSum]
  | succ n ih => simp only [xorSum, ih]; ac_rfl

/-! ### Products with zero, by R127's first test -/

@[simp] theorem GF.mul_zero (F : GF) (a : Cell) : F.mul a 0#12 = 0#12 := by simp [GF.mul]

@[simp] theorem GF.zero_mul (F : GF) (a : Cell) : F.mul 0#12 a = 0#12 := by simp [GF.mul]

/-! ### Coefficients -/

theorem Memory.read_map (f : Cell → Cell) (hf : f 0#12 = 0#12) (p : List Cell) (i : Nat) :
    Memory.read (p.map f) i = f (Memory.read p i) := by
  simp only [Memory.read, List.getD_eq_getElem?_getD, List.getElem?_map]
  cases p[i]? <;> simp [hf]

@[simp] theorem read_polyAdd (p q : List Cell) (i : Nat) :
    Memory.read (polyAdd p q) i = Memory.read p i ^^^ Memory.read q i := by
  induction p generalizing q i with
  | nil => simp [polyAdd]
  | cons a as ih =>
    cases q with
    | nil => simp [polyAdd]
    | cons b bs => cases i <;> simp [polyAdd, gfAdd, ih]

@[simp] theorem read_polyScale (F : GF) (c : Cell) (p : List Cell) (i : Nat) :
    Memory.read (polyScale F c p) i = F.mul c (Memory.read p i) := by
  rw [polyScale]
  split
  · simp_all
  · exact Memory.read_map _ (by simp) _ _

@[simp] theorem read_polyShift (k : Nat) (p : List Cell) (i : Nat) :
    Memory.read (polyShift k p) i = if k ≤ i then Memory.read p (i - k) else 0 := by
  rw [polyShift]
  induction k generalizing i with
  | zero => simp
  | succ k ih =>
    rw [List.replicate_succ, List.cons_append]
    cases i with
    | zero => simp
    | succ i => rw [Memory.read_cons_succ, ih]; simp

/-- The product is the convolution (R155). -/
@[simp] theorem read_polyMul (F : GF) (p q : List Cell) (i : Nat) :
    Memory.read (polyMul F p q) i = mulCoef F (Memory.read p) (Memory.read q) i := by
  induction p generalizing i with
  | nil =>
    simp [polyMul, mulCoef]
  | cons a as ih =>
    rw [polyMul, read_polyAdd, read_polyScale, mulCoef, xorSum_succ_left]
    cases i with
    | zero => simp [xorSum]
    | succ i =>
      rw [Memory.read_cons_succ, ih, mulCoef, Memory.read_cons_zero, Nat.sub_zero]
      congr 1
      exact xorSum_congr fun j _ => by rw [Memory.read_cons_succ, show i + 1 - (j + 1) = i - j by omega]

/-- The derivative keeps the odd coefficients (R158). -/
@[simp] theorem read_polyDeriv (p : List Cell) (i : Nat) :
    Memory.read (polyDeriv p) i = derivCoef (Memory.read p) i := by
  induction p using polyDeriv.induct generalizing i with
  | case1 => simp [polyDeriv, derivCoef]
  | case2 c => simp [polyDeriv, derivCoef]
  | case3 c d rest ih =>
    rw [polyDeriv]
    match i with
    | 0 => simp [derivCoef]
    | 1 => simp [derivCoef]
    | i + 2 => simp [derivCoef, ih]

/-! ### The zero test and the degree -/

theorem polyIsZero_eq_true_iff (p : List Cell) : polyIsZero p = true ↔ ∀ i, Memory.read p i = 0 := by
  constructor
  · intro h i
    have hz : Memory.trim p = [] := (Memory.trim_eq_nil_iff p).2 fun c hc => by
      simpa using (List.all_eq_true.1 h) c hc
    rw [← Memory.read_trim, hz, Memory.read_nil]
  · intro h
    refine List.all_eq_true.2 fun c hc => ?_
    obtain ⟨i, hi, rfl⟩ := List.getElem_of_mem hc
    simpa [Memory.read, List.getD_eq_getElem?_getD, hi] using h i

/-- The computed degree is the degree (R151). -/
theorem polyDeg_isDegree (p : List Cell) : IsDegree (Memory.read p) (polyDeg p) := by
  rw [polyDeg]
  by_cases h : Memory.trim p = []
  · refine .inr ⟨by simp [h], fun i => ?_⟩
    rw [← Memory.read_trim, h, Memory.read_nil]
  · refine .inl ⟨?_, fun i hi => ?_⟩
    · have hl := Memory.trim_getLast p
      rw [List.getLast?_eq_getElem?] at hl
      rw [← Memory.read_trim, Memory.read, List.getD_eq_getElem?_getD]
      have hlen : (Memory.trim p).length - 1 < (Memory.trim p).length := by
        have := List.length_pos_iff.2 h
        omega
      simpa [List.getElem?_eq_getElem hlen] using hl
    · rw [← Memory.read_trim]
      exact Memory.read_of_length_le (by omega)

/-- A polynomial has one degree. -/
theorem IsDegree.unique {p : Nat → Cell} {d e : Nat} (hd : IsDegree p d) (he : IsDegree p e) : d = e := by
  obtain ⟨h1, h2⟩ | ⟨rfl, h2⟩ := hd <;> obtain ⟨k1, k2⟩ | ⟨rfl, k2⟩ := he
  · rcases Nat.lt_trichotomy d e with h | h | h
    · exact absurd (h2 e h) k1
    · exact h
    · exact absurd (k2 d h) h1
  · exact absurd (k2 d) h1
  · exact absurd (h2 e) k1
  · rfl

/-! ### Horner's loop -/

theorem hornerLoop_zero_above (F : GF) (p : Nat → Cell) (x : Cell) {n k : Nat} (hnk : n ≤ k)
    (h : ∀ i, n ≤ i → p i = 0) : hornerLoop F p x k 0 = hornerLoop F p x n 0 := by
  induction k with
  | zero => rw [show n = 0 by omega]
  | succ k ih =>
    rcases Nat.lt_or_ge k n with hk | hk
    · rw [show n = k + 1 by omega]
    · rw [hornerLoop, h k hk]; simpa using ih hk

/-- The fold over a list is Horner's loop from any index at or above its length (R156). -/
theorem polyEval_eq_horner (F : GF) (p : List Cell) (x : Cell) {k : Nat} (hk : p.length ≤ k) :
    polyEval F p x = horner F (Memory.read p) k x := by
  rw [horner, hornerLoop_zero_above F _ x hk fun i hi => Memory.read_of_length_le hi]
  have key : ∀ (q : List Cell) (acc : Cell),
      hornerLoop F (Memory.read q) x q.length acc = q.foldr (fun c a => gfAdd (F.mul a x) c) acc := by
    intro q
    induction q using List.reverseRecOn with
    | nil => intro acc; rfl
    | append_singleton q c ih =>
      intro acc
      rw [List.length_append, List.length_singleton, hornerLoop, List.foldr_append]
      have hc : Memory.read (q ++ [c]) q.length = c := by simp [Memory.read]
      rw [hc]
      simp only [List.foldr_cons, List.foldr_nil]
      rw [← gfAdd, ← ih]
      have hloop : ∀ (n : Nat) (b : Cell), n ≤ q.length →
          hornerLoop F (Memory.read (q ++ [c])) x n b = hornerLoop F (Memory.read q) x n b := by
        intro n
        induction n with
        | zero => intro b _; rfl
        | succ n ihn =>
          intro b hn
          rw [hornerLoop, hornerLoop, ihn _ (by omega)]
          congr 2
          simp [Memory.read, List.getElem?_append, show n < q.length by omega]
      exact hloop _ _ (Nat.le_refl _)
  exact (key p 0).symm

/-- The value of a canonical array register (R169). -/
theorem State.polyEval_arr (s : State) {sel : ArrSel} (h : Memory.wf (s.arr sel) = true) (x : Cell) :
    polyEval s.gf (s.arr sel) x = s.valueAt sel x :=
  polyEval_eq_horner _ _ _ ((Memory.wf_iff _).1 h).1

end Sys2Proof.Machine
end

