-- ==== Sys2Proof/Tests/Slice0.lean ====
section
/-! SUPPORT. The model's own tests: the encoding checks, one step of each command, and a witness for the hypotheses of
each obligation. Every expected word and value is from the examples of the spec's rules (30_encoding.md, 40_system.md to
44_decoder.md) or worked out by hand from its tables. -/

set_option Elab.async false

namespace Sys2Proof.Tests

open Sys2Proof Sys2Proof.Machine

/-! ### Ill-formed words (30_encoding.md R97): each check refuses one -/

theorem test_wf_group : wellFormedWord 0x60000000 = false ∧ decode 0x60000000 = .error .unassignedGroup := by decide
theorem test_wf_group_top : wellFormedWord 0xFFFFFFFF = false ∧ decode 0xFFFFFFFF = .error .unassignedGroup := by decide
theorem test_wf_function_sys : wellFormedWord 0x03000000 = false ∧ decode 0x03000000 = .error .unassignedFunction := by
  decide
theorem test_wf_function_fld : wellFormedWord 0x1B000000 = false ∧ decode 0x1B000000 = .error .unassignedFunction := by
  decide
theorem test_wf_function_poly : wellFormedWord 0x48000000 = false ∧ decode 0x48000000 = .error .unassignedFunction := by
  decide
theorem test_wf_function_codec : wellFormedWord 0x5D000000 = false ∧ decode 0x5D000000 = .error .unassignedFunction := by
  decide
theorem test_wf_selector_fn : wellFormedWord 0x2A000000 = false ∧ decode 0x2A000000 = .error .selectorAboveNine := by
  decide
theorem test_wf_selector_pd : wellFormedWord 0x40A00000 = false ∧ decode 0x40A00000 = .error .selectorAboveNine := by
  decide
theorem test_wf_selector_pa : wellFormedWord 0x420F0000 = false ∧ decode 0x420F0000 = .error .selectorAboveNine := by
  decide
theorem test_wf_selector_pb : wellFormedWord 0x4400A000 = false ∧ decode 0x4400A000 = .error .selectorAboveNine := by
  decide
theorem test_wf_register : wellFormedWord 0x0200D000 = false ∧ decode 0x0200D000 = .error .registerAboveTwelve := by
  decide
theorem test_wf_reserved_z : wellFormedWord 0x00000001 = false ∧ decode 0x00000001 = .error .reservedBitSet := by decide
theorem test_wf_reserved_i13 : wellFormedWord 0x11002000 = false ∧ decode 0x11002000 = .error .reservedBitSet := by
  decide
theorem test_wf_reserved_i12 : wellFormedWord 0x50001000 = false ∧ decode 0x50001000 = .error .reservedBitSet := by
  decide
theorem test_wf_reserved_i1 : wellFormedWord 0x52000002 = false ∧ decode 0x52000002 = .error .reservedBitSet := by
  decide
theorem test_wf_reserved_a : wellFormedWord 0x16002001 = false ∧ decode 0x16002001 = .error .reservedBitSet := by decide
theorem test_wf_reserved_x : wellFormedWord 0x30005001 = false ∧ decode 0x30005001 = .error .reservedBitSet := by decide
theorem test_wf_reserved_p1d : wellFormedWord 0x40910000 = false ∧ decode 0x40910000 = .error .reservedBitSet := by
  decide
theorem test_wf_reserved_p2 : wellFormedWord 0x41931000 = false ∧ decode 0x41931000 = .error .reservedBitSet := by
  decide
theorem test_wf_reserved_p1s : wellFormedWord 0x42130000 = false ∧ decode 0x42130000 = .error .reservedBitSet := by
  decide
theorem test_wf_reserved_p3 : wellFormedWord 0x44534001 = false ∧ decode 0x44534001 = .error .reservedBitSet := by
  decide
theorem test_wf_reserved_p2s : wellFormedWord 0x46134000 = false ∧ decode 0x46134000 = .error .reservedBitSet := by
  decide
theorem test_wf_reserved_p1x : wellFormedWord 0x47031003 = false ∧ decode 0x47031003 = .error .reservedBitSet := by
  decide

/-! ### Decoding: the words of the rules' examples, one for each command -/

theorem test_decode_sys :
    decode 0x00000000 = .ok .nop ∧ decode 0x01000000 = .ok .reset ∧ decode 0x02005000 = .ok (.rdcsr .status) := by
  decide
theorem test_decode_fld :
    decode 0x1000000D = .ok (.fsetm 13) ∧ decode 0x10FFFFFF = .ok (.fsetm 0xFFFFFF) ∧
    decode 0x1100011B = .ok (.fsetp 0x11B) ∧ decode 0x12000000 = .ok .finit ∧
    decode 0x13007009 = .ok (.fadd 7 9) ∧ decode 0x1400F0F0 = .ok (.fmul 15 240) ∧
    decode 0x1500600C = .ok (.fdiv 6 12) ∧ decode 0x16002000 = .ok (.finv 2) ∧
    decode 0x17007FFF = .ok (.fpow 7 4095) ∧ decode 0x18006000 = .ok (.fisprim 6) ∧
    decode 0x19013000 = .ok (.fexp 19) ∧ decode 0x1A009000 = .ok (.flog 9) := by
  decide
theorem test_decode_cell :
    decode 0x20005001 = .ok (.pwr .cw 5 1) ∧ decode 0x23000010 = .ok (.pwr .lam 0 16) ∧
    decode 0x30006000 = .ok (.prd .cw 6) ∧ decode 0x39FFF000 = .ok (.prd .eval 4095) := by
  decide
theorem test_decode_poly :
    decode 0x40900000 = .ok (.pclr .eval) ∧ decode 0x41930000 = .ok (.pmov .eval .lam) ∧
    decode 0x42030000 = .ok (.pdeg .lam) ∧ decode 0x43050000 = .ok (.pisz .omg) ∧
    decode 0x44534000 = .ok (.padd .omg .lam .bp) ∧ decode 0x45100000 = .ok (.pmul .g .cw .cw) ∧
    decode 0x46034000 = .ok (.pdivmod .lam .bp) ∧ decode 0x47030003 = .ok (.peval .lam 3) := by
  decide
theorem test_decode_codec :
    decode 0x5000000F = .ok (.csetn 15) ∧ decode 0x51000007 = .ok (.csett 7) ∧
    decode 0x52000001 = .ok (.csetmode .rs) ∧ decode 0x53004000 = .ok (.geng 4) ∧
    decode 0x54002000 = .ok (.genb 2) ∧ decode 0x55000000 = .ok .enc ∧ decode 0x56000000 = .ok .synd ∧
    decode 0x57000000 = .ok .bma ∧ decode 0x58000000 = .ok .chien ∧ decode 0x59000000 = .ok .omega ∧
    decode 0x5A000000 = .ok .forney ∧ decode 0x5B000000 = .ok .correct ∧ decode 0x5C000000 = .ok .decode := by
  decide
theorem test_encode_reads_back :
    encode (.padd .omg .lam .bp) = 0x44534000 ∧ encode (.pwr .lam 0 16) = 0x23000010 ∧
    encode (.fsetp 0x11B) = 0x1100011B ∧ encode (.csetmode .rs) = 0x52000001 ∧ encode (.rdcsr .esticky) = 0x0200C000 := by
  decide
theorem test_decode_table_word :
    decodeTableWord 32 0x13007009 = some (.fadd 7 9) ∧ decodeTableWord 32 0x60000000 = none := by
  decide

/-! ### Small states -/

/-- The state after a list of commands. -/
def afterAll (is : List Instr) (s : State) : State := is.foldl (fun s i => s.after i) s

/-- `PLOAD` (30_encoding.md R99): an array cleared and loaded, low index first. -/
def load (sel : ArrSel) (cs : List Cell) : List Instr :=
  .pclr sel :: (List.range cs.length).map fun i => .pwr sel (BitVec.ofNat 12 i) (Memory.read cs i)

/-- The response of a command in a state. -/
def answer (i : Instr) (s : State) : Option Word := (s.after i).responses.getLast?

/-- GF(2^3), built. -/
def gf8 : State := afterAll [.fsetm 3, .finit] .reset

/-- GF(2^4), built. -/
def gf16 : State := afterAll [.fsetm 4, .finit] .reset

/-- The setting of the examples of 42_polynomial.md section 4. -/
def polys : State := afterAll (load .lam [5, 0, 0, 7, 1] ++ load .bp [3, 0, 2]) gf16

/-- BCH, N = 15, T = 2, `GENB 2`, data 1, 0, 1, 1, 0, 1, 0 (43_generator_encoder.md R191). -/
def bchData : State :=
  afterAll ([.csetmode .bch, .csetn 15, .csett 2, .genb 2] ++ load .cw [0, 0, 0, 0, 0, 0, 0, 0, 1, 0, 1, 1, 0, 1, 0]) gf16

/-- RS, N = 15, T = 2, `GENG 4`, data 1 to 11 (R191). -/
def rsData : State :=
  afterAll ([.csetmode .rs, .csetn 15, .csett 2, .geng 4] ++ load .cw [1, 2, 3, 4, 5, 6, 7, 8, 9, 10, 11]) gf16

/-- The word of `bchData` with the bit at position 5 flipped (44_decoder.md R202). -/
def bchOneError : State := afterAll [.enc, .pwr .cw 5 1] bchData

/-- The word of `rsData` with errors 13 at position 3 and 5 at position 12 (44_decoder.md R223, R231). -/
def rsTwoErrors : State := afterAll [.enc, .pwr .cw 3 9, .pwr .cw 12 1] rsData

/-- After the phases before correction. -/
def rsSearched : State := afterAll [.synd, .bma, .chien, .omega, .forney] rsTwoErrors

/-- `x^4095` in `CW`. -/
def longWord : State := { gf16 with arrays := { gf16.arrays with cw := List.replicate 4095 0 ++ [1] } }

/-! ### One step of each command, against the examples of its rule -/

theorem test_nop : answer .nop { State.reset with res := 0x39 } = some 0x00000039 := by decide
theorem test_reset : answer .reset rsData = some 0 ∧ (rsData.after .reset).status.value = 0 := by decide +kernel
theorem test_rdcsr_prim : answer (.rdcsr .prim) (afterAll [.fsetm 8] .reset) = some 0x0000011D := by decide
theorem test_rdcsr_status : answer (.rdcsr .status) (rsTwoErrors.after .decode) = some 0x00000005 := by decide +kernel
theorem test_fsetm : (State.reset.after (.fsetm 8)).prim = 0x11D ∧ answer (.fsetm 13) .reset = some 0x10000000 := by decide
theorem test_fsetm_locked : answer (.fsetm 4) gf16 = some 0x90000000 := by decide +kernel
theorem test_fsetp : (afterAll [.fsetm 8, .fsetp 0x11B] .reset).prim = 0x11B := by decide
theorem test_finit_tables :
    gf16.exp = [1, 2, 4, 8, 3, 6, 12, 11, 5, 10, 7, 14, 15, 13, 9] ∧ gf16.status.fv = true := by decide +kernel
theorem test_finit_not_primitive : answer .finit (afterAll [.fsetm 4, .fsetp 0x1F] .reset) = some 0x10000000 := by
  decide +kernel
theorem test_fadd : answer (.fadd 7 9) gf16 = some 0x0000000E := by decide +kernel
theorem test_fmul : answer (.fmul 7 9) gf16 = some 0x0000000A := by decide +kernel
theorem test_fmul_gf256 : answer (.fmul 15 240) (afterAll [.fsetm 8, .finit] .reset) = some 0x00000039 := by
  decide +kernel
theorem test_fdiv : answer (.fdiv 6 12) gf16 = some 0x00000009 := by decide +kernel
theorem test_fdiv_zero : answer (.fdiv 5 0) gf16 = some 0x20000000 := by decide +kernel
theorem test_finv : answer (.finv 2) gf16 = some 0x00000009 := by decide +kernel
theorem test_finv_zero : answer (.finv 0) gf16 = some 0x20000000 := by decide +kernel
theorem test_fpow : answer (.fpow 3 5) gf16 = some 0x00000006 := by decide +kernel
theorem test_fpow_long : answer (.fpow 7 4095) gf16 = some 0x00000001 := by decide +kernel
theorem test_fisprim : answer (.fisprim 2) gf16 = some 0x00000001 := by decide +kernel
theorem test_fisprim_order_three : answer (.fisprim 6) gf16 = some 0x00000000 := by decide +kernel
theorem test_fexp : answer (.fexp 19) gf16 = some 0x00000003 := by decide +kernel
theorem test_fexp_ord : answer (.fexp 15) gf16 = some 0x00000001 := by decide +kernel
theorem test_flog : answer (.flog 9) gf16 = some 0x0000000E := by decide +kernel
theorem test_flog_zero : answer (.flog 0) gf16 = some 0x80000000 := by decide +kernel
theorem test_pwr : (gf16.after (.pwr .cw 5 1)).coef .cw 5 = 1 ∧ (gf16.after (.pwr .cw 5 1)).coef .cw 6 = 0 := by
  decide +kernel
theorem test_pwr_range : answer (.pwr .lam 0 16) gf16 = some 0x60000000 := by decide +kernel
theorem test_prd : answer (.prd .cw 5) (gf16.after (.pwr .cw 5 1)) = some 0x00000001 := by decide +kernel
theorem test_prd_not_ready : answer (.prd .cw 5) .reset = some 0x50000000 := by decide
theorem test_pclr : (polys.after (.pclr .lam)).arr .lam = [] := by decide +kernel
theorem test_pmov : answer (.prd .eval 3) (polys.after (.pmov .eval .lam)) = some 0x00000007 := by decide +kernel
theorem test_pdeg : answer (.pdeg .lam) polys = some 0x00000004 ∧ answer (.pdeg .omg) polys = some 0 := by decide +kernel
theorem test_pisz : answer (.pisz .lam) polys = some 0 ∧ answer (.pisz .omg) polys = some 1 := by decide +kernel
theorem test_padd : (polys.after (.padd .omg .lam .bp)).arr .omg = [6, 0, 2, 7, 1] := by decide +kernel
theorem test_pmul : (polys.after (.pmul .omg .bp .bp)).arr .omg = [5, 0, 0, 0, 4] := by decide +kernel
theorem test_pdivmod :
    (polys.after (.pdivmod .lam .bp)).arr .qt = [4, 10, 9] ∧ (polys.after (.pdivmod .lam .bp)).arr .rm = [9, 13] := by
  decide +kernel
theorem test_pdivmod_zero : answer (.pdivmod .lam .eval) polys = some 0x20000000 := by decide +kernel
theorem test_peval : answer (.peval .lam 3) polys = some 0x0000000C := by decide +kernel
theorem test_csetn : answer (.csetn 15) gf16 = some 0 ∧ answer (.csetn 16) gf16 = some 0x10000000 := by decide +kernel
theorem test_csett : answer (.csett 7) gf16 = some 0 ∧ answer (.csett 8) gf16 = some 0x10000000 := by decide +kernel
theorem test_csetmode : (gf16.after (.csetmode .rs)).mode = .rs ∧ answer (.csetmode .rs) gf16 = some 0 := by
  decide +kernel
theorem test_geng : (gf16.after (.geng 4)).arr .g = [7, 8, 12, 13, 1] ∧ answer (.geng 4) gf16 = some 4 := by
  decide +kernel
theorem test_geng_top : answer (.geng 15) gf16 = some 0x10000000 := by decide +kernel
theorem test_genb : (gf16.after (.genb 2)).arr .g = [1, 0, 0, 0, 1, 0, 1, 1, 1] ∧ answer (.genb 2) gf16 = some 8 := by
  decide +kernel
theorem test_genb_three : (gf16.after (.genb 3)).arr .g = [1, 1, 1, 0, 1, 1, 0, 0, 1, 0, 1] := by decide +kernel
theorem test_enc_bch : (bchData.after .enc).arr .cw = [0, 1, 1, 1, 1, 0, 1, 0, 1, 0, 1, 1, 0, 1] := by decide +kernel
theorem test_enc_rs : (rsData.after .enc).arr .cw = [1, 2, 3, 4, 5, 6, 7, 8, 9, 10, 11, 8, 4, 6, 9] := by decide +kernel
theorem test_synd_zero : answer .synd (bchData.after .enc) = some 0x00000001 := by decide +kernel
theorem test_synd_one_error : (bchOneError.after .synd).arr .syn = [6, 7, 1, 6] := by decide +kernel
theorem test_bma_arrays : rsSearched.arr .lam = [1, 7, 1] ∧ rsSearched.arr .bp = [1, 5] := by decide +kernel
theorem test_bma_scalars : rsSearched.l = 2 ∧ rsSearched.pos = 2 ∧ rsSearched.bd = 10 := by decide +kernel
theorem test_chien : rsSearched.arr .epos = [3, 12] ∧ rsSearched.nroots = 2 := by decide +kernel
theorem test_omega : rsSearched.arr .omg = [4, 8] := by decide +kernel
theorem test_forney : rsSearched.arr .eval = [13, 5] ∧ rsSearched.res = 0 := by decide +kernel
theorem test_forney_zero_denominator :
    answer .forney (afterAll (load .lam [1, 2, 1, 2] ++ [.chien]) rsData) = some 0x00000001 := by decide +kernel
theorem test_correct : (rsSearched.after .correct).arr .cw = [1, 2, 3, 4, 5, 6, 7, 8, 9, 10, 11, 8, 4, 6, 9] := by
  decide +kernel
/-- With `N` = 12 the listed position 12 is no symbol: its cell stays 1 (10_state.md R33). -/
theorem test_correct_position_at_n :
    (afterAll [.csetn 12, .correct] rsSearched).coef .cw 3 = 4 ∧
    (afterAll [.csetn 12, .correct] rsSearched).coef .cw 12 = 1 := by decide +kernel
theorem test_decode_rs :
    (rsTwoErrors.after .decode).arr .cw = [1, 2, 3, 4, 5, 6, 7, 8, 9, 10, 11, 8, 4, 6, 9] ∧
    (rsTwoErrors.after .decode).ecnt = 2 := by decide +kernel
theorem test_decode_bch_three_errors :
    (afterAll [.enc, .pwr .cw 0 1, .pwr .cw 5 1, .pwr .cw 10 0, .decode] bchData).status.value = 0x09 := by
  decide +kernel

/-! ### The step -/

/-- The state after a step. -/
def stepped (s : State) : State :=
  match step s with
  | .next t => t
  | .fault _ | .refused _ => s

theorem test_step_runs_fetched :
    (stepped (State.reset.withFetchWord 32 0x10000008)).prim = 0x11D ∧
    (stepped (State.reset.withFetchWord 32 0x10000008)).responses = [0] := by decide
theorem test_step_illegal :
    (stepped (State.reset.withFetchWord 32 0x00000001)).esticky = 0x10 ∧
    (stepped (State.reset.withFetchWord 32 0x00000001)).responses = [0x40000000] := by decide
theorem test_step_rst : stepped { gf16 with pending := [.rst] } = { State.reset with responses := [0, 0] } := by
  decide +kernel

/-! ### The invariant as a check -/

/-- The ten selectors. -/
def selectors : List ArrSel := [.cw, .g, .syn, .lam, .bp, .omg, .qt, .rm, .epos, .eval]

theorem mem_selectors (sel : ArrSel) : sel ∈ selectors := by cases sel <;> decide

/-- The invariant of a state with a field, as a Bool. -/
def invBuilt (s : State) : Bool :=
  selectors.all (fun sel => Memory.wf (s.arr sel) && (s.arr sel).all (fun c => c.toNat < 2 ^ s.m.toNat)) &&
  (s.status.fv && decide (3 ≤ s.m.toNat) && decide (s.m.toNat ≤ 12) && degreeIs s.m.toNat s.prim &&
    alphaHasFullOrder s.m.toNat s.prim && s.exp == expTable s.m.toNat s.prim && s.log == logTable s.m.toNat s.exp) &&
  decide (s.n.toNat ≤ s.ord) && decide (2 * s.t.toNat ≤ s.ord - 1) &&
  (decide (s.lasterr.toNat ≤ 9) && s.lasterr != 3 && s.esticky &&& 0xFC09 == 0)

theorem inv_of_invBuilt {s : State} (h : invBuilt s = true) : s.Inv := by
  simp only [invBuilt, Bool.and_eq_true, List.all_eq_true, decide_eq_true_eq, beq_iff_eq, bne_iff_ne] at h
  obtain ⟨⟨⟨⟨harr, ⟨⟨⟨⟨⟨hfv, h3⟩, h12⟩, hd⟩, ho⟩, he⟩, hl⟩, hn⟩, ht⟩, ⟨hle, hne⟩, hst⟩ := h
  refine ⟨fun sel => (harr sel (mem_selectors sel)).1, ⟨fun _ => ⟨⟨hfv, h3, h12, hd, ho, he, hl⟩, fun sel c hc => ?_, hn, ht⟩,
    fun h0 => ?_⟩, hle, hne, hst⟩
  · exact (harr sel (mem_selectors sel)).2 c hc
  · rw [hfv] at h0; cases h0

theorem gf16_inv : gf16.Inv := inv_of_invBuilt (by decide +kernel)
theorem polys_inv : polys.Inv := inv_of_invBuilt (by decide +kernel)
theorem bchData_inv : bchData.Inv := inv_of_invBuilt (by decide +kernel)
theorem rsData_inv : rsData.Inv := inv_of_invBuilt (by decide +kernel)
theorem bchOneError_inv : bchOneError.Inv := inv_of_invBuilt (by decide +kernel)
theorem rsTwoErrors_inv : rsTwoErrors.Inv := inv_of_invBuilt (by decide +kernel)

theorem bchData_decOK : bchData.DecOK := by unfold State.DecOK State.GeomOK State.ord; decide +kernel
theorem rsData_decOK : rsData.DecOK := by unfold State.DecOK State.GeomOK State.ord; decide +kernel
theorem bchOneError_decOK : bchOneError.DecOK := by unfold State.DecOK State.GeomOK State.ord; decide +kernel
theorem rsTwoErrors_decOK : rsTwoErrors.DecOK := by unfold State.DecOK State.GeomOK State.ord; decide +kernel

/-- A state with one received symbol that is no bit, in BCH mode. -/
def bchBadSymbol : State := afterAll [.enc, .pwr .cw 14 2] bchData

/-- Configurations at the edge of each clause of `DecOK`: no length, a short BCH word, no capacity, 2T = N. -/
def noLength : State := afterAll [.csetmode .rs, .csett 2] gf16
def shortBch : State := afterAll [.csetn 14, .csett 2] gf16
def noCapacity : State := afterAll [.csetn 15] gf16
def tightCapacity : State := afterAll [.csetmode .rs, .csetn 4, .csett 2] gf16

/-! ### Witnesses: for each obligation, states and operands that meet the hypotheses of each of its clauses, at the edges of
the ranges where the clause has one -/

/-- The ranges of `ImmediateMustBeZero`, `SecondFieldMustBeZero` and the selector clauses, in every command's statement. -/
theorem witness_FieldRanges :
    (0 < 4096 ∧ 1 < 4096 ∧ ¬(0 = 0 ∧ 1 = 0)) ∧ (4095 < 4096 ∧ 0 < 4096 ∧ ¬(4095 = 0 ∧ 0 = 0)) ∧
    (4095 < 4096 ∧ 1 < 4096 ∧ 1 ≠ 0) ∧ (15 < 16 ∧ 10 ≤ 15) ∧ (10 ≤ 10 ∧ 10 < 16) := by decide
theorem witness_DecodedWordsEncodeBack : decode 0x13007009 = .ok (.fadd 7 9) := by decide
theorem witness_DecodeFollowsOpcodeTable :
    (∀ r ∈ opRows.take 1, r ∈ opRows ∧ r.accepts 0x00000000 = true) ∧ decode 0x00000000 = .ok .nop ∧
    IllegalWord 0x00000001 :=
  ⟨by decide, by decide, .reservedBitSet, by decide⟩
theorem witness_IllegalWordsAreTheListedOnes :
    (15 < 16 ∧ 15 < 16 ∧ 4095 < 4096 ∧ 4095 < 4096) ∧ IllegalWord (wordOf 15 15 4095 4095) ∧
    ¬IllegalWord (wordOf 5 12 0 0) :=
  ⟨by decide, ⟨.unassignedGroup, by decide⟩, fun ⟨w, h⟩ => by revert h; cases w <;> decide⟩
theorem witness_StepRunsDecodedCommand :
    (State.reset.withFetchWord 32 0).pending = .command 0x00000000 :: [] ∧ decode 0x00000000 = .ok .nop ∧
    IllegalWord 0x00000001 := ⟨by decide, by decide, .reservedBitSet, by decide⟩
theorem witness_IdleAndResetInput :
    State.reset.pending = [] ∧ ({ gf16 with pending := [.rst] } : State).pending = .rst :: [] := ⟨rfl, rfl⟩
theorem witness_FaultsArePrecise :
    runWord 0x00000001 .reset = .next (State.reset.faulted 4) ∧
    (State.reset.faulted 4).responses = State.reset.responses ++ [0x40000000] ∧ errField 0x40000000 ≠ 0 :=
  ⟨rfl, by decide, by decide⟩
theorem witness_ResetRule :
    (Instr.finit ≠ .reset ∧ exec .finit gf16 = .next (gf16.after .finit)) ∧
    (({ gf16 with pending := [.rst] } : State).pending = .rst :: [] ∧
      step { gf16 with pending := [.rst] } = .next { State.reset with responses := gf16.responses }) :=
  ⟨⟨by decide, rfl⟩, rfl, rfl⟩
theorem witness_RdcsrRule : (0 < 4096 ∧ 1 < 4096 ∧ 1 ≠ 0) ∧ (13 < 4096 ∧ 0 < 4096 ∧ 13 ≤ 13) := by decide
theorem witness_FieldSettersRule :
    gf16.status.fv = true ∧ State.reset.status.fv = false ∧ ((2 : BitVec 24).toNat < 3 ∧ 12 < (13 : BitVec 24).toNat) ∧
    ((3 : BitVec 24).toNat, (0x0B : BitVec 13)) ∈ defaultPolys ∧
    ((12 : BitVec 24).toNat, (0x1053 : BitVec 13)) ∈ defaultPolys ∧
    (9 : BitVec 24).toNat = 9 ∧ (11 : BitVec 24).toNat = 11 ∧ 8192 ≤ 2 * 4096 + 0 := by decide +kernel
theorem witness_FinitRule :
    gf16.status.fv = true ∧ State.reset.status.fv = false ∧ ¬FieldAccepted State.reset.m.toNat State.reset.prim.toNat ∧
    (State.reset.after (.fsetm 3)).status.fv = false ∧
    FieldAccepted (State.reset.after (.fsetm 3)).m.toNat (State.reset.after (.fsetm 3)).prim.toNat := by
  refine ⟨by decide +kernel, rfl, fun h => absurd h.1 (by decide), rfl, by decide, by decide, by decide, ?_, by decide⟩
  intro i h1 h2
  have h2 : i < 7 := h2
  interval_cases i <;> decide
/-- For FaddFmulRule, FdivFinvRule, FpowFexpRule, FisprimRule and FlogRule, in GF(2^4): 15 is the last element, 16 is none. -/
theorem witness_ElementCommands :
    State.reset.status.fv = false ∧ gf16.status.fv = true ∧ gf16.Inv ∧ ¬gf16.isElement 16 ∧ gf16.isElement 15 ∧
    gf16.isElement 0 ∧ (15 : Cell) ≠ 0 ∧ (15 : Cell).toNat = gf16.ord ∧
    (0 : Cell).toNat % gf16.ord = (15 : Cell).toNat % gf16.ord := by
  unfold State.isElement State.ord
  exact ⟨rfl, by decide +kernel, gf16_inv, by decide +kernel, by decide +kernel, by decide +kernel, by decide,
    by decide +kernel, by decide +kernel⟩
/-- For FisprimRule's two outcomes: 2 has order 15 in GF(2^4), and 1 has not (41_field.md R137). -/
theorem witness_FisprimRule :
    ((2 : Cell) ≠ 0 ∧ IsLeast { e : Nat | 1 ≤ e ∧ gf16.gf.pow 2 e = 1 } gf16.ord) ∧
    ¬((1 : Cell) ≠ 0 ∧ IsLeast { e : Nat | 1 ≤ e ∧ gf16.gf.pow 1 e = 1 } gf16.ord) := by
  refine ⟨⟨by decide, ⟨by decide, by decide +kernel⟩, fun e ⟨h1, h2⟩ => ?_⟩, fun ⟨_, h⟩ => ?_⟩
  · by_contra hlt
    have hlt : e < 15 := Nat.lt_of_not_le hlt
    have hall : ∀ e, e < 15 → 1 ≤ e → gf16.gf.pow 2 e ≠ 1 := by decide +kernel
    exact hall e hlt h1 h2
  · exact absurd (h.2 ⟨Nat.le_refl 1, by decide +kernel⟩ : gf16.ord ≤ 1) (by decide +kernel)
/-- For TablesInvertEachOther, FieldLaws and MulIsReducedProduct. -/
theorem witness_TablesAndFieldLaws :
    gf16.Inv ∧ gf16.status.fv = true ∧ gf16.isElement 7 ∧ gf16.isElement 9 ∧ gf16.isElement 15 ∧ 14 < gf16.ord ∧
    (9 : Cell) ≠ 0 := by
  unfold State.isElement State.ord
  exact ⟨gf16_inv, by decide +kernel, by decide +kernel, by decide +kernel, by decide +kernel, by decide +kernel,
    by decide⟩
/-- For CellAccessRule, PclrPmovRule, PdegPiszRule, PaddRule and PevalRule. -/
theorem witness_PolynomialCommands :
    State.reset.status.fv = false ∧ polys.Inv ∧ polys.ArraysWf ∧ polys.status.fv = true ∧ polys.isElement 15 ∧
    ¬polys.isElement 16 ∧ (∀ i, polys.coef .omg i = 0) ∧ ¬(∀ i, polys.coef .lam i = 0) ∧
    10 ≤ 0xA00 / 256 ∧ 0x001 % 256 ≠ 0 := by
  unfold State.isElement
  refine ⟨rfl, polys_inv, polys_inv.1, by decide +kernel, by decide +kernel, by decide +kernel, fun i => ?_, fun h => ?_,
    by decide, by decide⟩
  · have : polys.arr .omg = [] := by decide +kernel
    rw [State.coef, this]; simp
  · exact absurd (h 4) (by decide +kernel)
theorem polys_lam_degree : IsDegree (polys.coef .lam) 4 := by
  have h := polyDeg_isDegree (polys.arr .lam)
  rwa [show polyDeg (polys.arr .lam) = 4 by decide +kernel] at h
theorem polys_bp_degree : IsDegree (polys.coef .bp) 2 := by
  have h := polyDeg_isDegree (polys.arr .bp)
  rwa [show polyDeg (polys.arr .bp) = 2 by decide +kernel] at h
theorem polys_omg_degree : IsDegree (polys.coef .omg) 0 := by
  have h := polyDeg_isDegree (polys.arr .omg)
  rwa [show polyDeg (polys.arr .omg) = 0 by decide +kernel] at h
theorem longWord_coef (i : Nat) : longWord.coef .cw i = if i = 4095 then 1 else 0 := by
  have h : longWord.coef .cw i = Memory.read (polyShift 4095 [1]) i := rfl
  rw [h, read_polyShift]
  rcases Nat.lt_trichotomy i 4095 with hi | hi | hi
  · rw [if_neg (by omega), if_neg (by omega)]
  · subst hi; simp
  · rw [if_pos (by omega), if_neg (by omega)]
    exact Memory.read_of_length_le (by simp; omega)
theorem test_pmul_overflow : exec (.pmul .g .cw .cw) longWord = .next (longWord.faulted 7) := by
  have hne : longWord.coef .cw 4095 ≠ 0 := by rw [longWord_coef]; decide
  have hz : polyIsZero (longWord.arr .cw) = false := by
    by_contra h
    exact hne ((polyIsZero_eq_true_iff _).1 (Bool.eq_true_of_not_eq_false h) 4095)
  have hd : polyDeg (longWord.arr .cw) = 4095 :=
    (polyDeg_isDegree _).unique (.inl ⟨hne, fun i hi => by
      show longWord.coef .cw i = 0
      rw [longWord_coef, if_neg (by omega)]⟩)
  have hfv : longWord.status.fv = true := (by decide +kernel : gf16.status.fv = true)
  generalize longWord = s at *
  rw [exec, execPmul, attempt_of_some (k := .overflow)]
  · rfl
  · simp [State.needField, hfv, productOverflows, hz, hd]
/-- Both sources `x^4095`: the degrees add up to 8190; and `LAM` with `BP`, and with a zero source, fit. -/
theorem witness_PmulRule :
    (longWord.status.fv = true ∧ IsDegree (longWord.coef .cw) 4095 ∧ longWord.coef .cw 4095 ≠ 0 ∧ 4095 < 4095 + 4095) ∧
    (polys.status.fv = true ∧ IsDegree (polys.coef .lam) 4 ∧ IsDegree (polys.coef .bp) 2 ∧ polys.coef .lam 4 ≠ 0 ∧
      polys.coef .bp 2 ≠ 0 ∧ 4 + 2 ≤ 4095) ∧ IsDegree (polys.coef .omg) 0 ∧ polys.coef .omg 0 = 0 := by
  have h : longWord.coef .cw 4095 ≠ 0 := by rw [longWord_coef]; decide
  refine ⟨⟨(by decide +kernel : gf16.status.fv = true), .inl ⟨h, fun i hi => ?_⟩, h, by decide⟩,
    ⟨by decide +kernel, polys_lam_degree, polys_bp_degree, by decide +kernel, by decide +kernel, by decide⟩,
    polys_omg_degree, by decide +kernel⟩
  rw [longWord_coef, if_neg (by omega)]
theorem witness_PdivmodRule :
    polys.status.fv = true ∧ (∀ i, polys.coef .omg i = 0) ∧ IsDegree (polys.coef .bp) 2 ∧ polys.coef .bp 2 ≠ 0 ∧ polys.Inv :=
  ⟨by decide +kernel, witness_PolynomialCommands.2.2.2.2.2.2.1, polys_bp_degree, by decide +kernel, polys_inv⟩
theorem witness_EvaluationIsHomomorphism :
    polys.Inv ∧ polys.status.fv = true ∧ (∀ c ∈ polys.arr .lam, polys.isElement c) ∧
    (∀ c ∈ polys.arr .bp, polys.isElement c) ∧ polys.isElement 15 ∧ IsDegree (polys.coef .lam) 4 ∧ 4 < 5 := by
  unfold State.isElement
  exact ⟨polys_inv, by decide +kernel, by decide +kernel, by decide +kernel, by decide +kernel, polys_lam_degree, by decide⟩
/-- In GF(2^4): lengths 0, 1, 15, 16 and capacities 0, 1, 7, 8. -/
theorem witness_CodeSettersRule :
    State.reset.status.fv = false ∧ gf16.status.fv = true ∧ (0 : BitVec 12).toNat < 1 ∧ gf16.ord < (16 : BitVec 12).toNat ∧
    (1 ≤ (1 : BitVec 12).toNat ∧ (15 : BitVec 12).toNat ≤ gf16.ord) ∧
    2 ^ gf16.m.toNat < 2 * (8 : BitVec 12).toNat + 2 ∧ 2 * (7 : BitVec 12).toNat + 2 ≤ 2 ^ gf16.m.toNat ∧
    4096 ≤ 1 * 4096 + 0 ∧ 2 ≤ 0 * 4096 + 2 := by
  unfold State.ord; decide +kernel
/-- For GengRule, GenbRule and GenbIsBinary, in GF(2^4): ρ from 1 to 14, t from 1 to 7. -/
theorem witness_GeneratorCommands :
    State.reset.status.fv = false ∧ gf16.Inv ∧ gf16.status.fv = true ∧ (0 : BitVec 12).toNat < 1 ∧
    2 ^ gf16.m.toNat < (15 : BitVec 12).toNat + 2 ∧ (14 : BitVec 12).toNat + 2 ≤ 2 ^ gf16.m.toNat ∧
    2 ^ gf16.m.toNat < 2 * (8 : BitVec 12).toNat + 2 ∧ 2 * (7 : BitVec 12).toNat + 2 ≤ 2 ^ gf16.m.toNat ∧
    1 ≤ (1 : BitVec 12).toNat :=
  ⟨rfl, gf16_inv, by decide +kernel, by decide, by decide +kernel, by decide +kernel, by decide +kernel,
    by decide +kernel, by decide⟩
theorem bchData_encOK : bchData.EncOK 8 := by
  have h := polyDeg_isDegree (bchData.arr .g)
  rw [show polyDeg (bchData.arr .g) = 8 by decide +kernel] at h
  refine ⟨bchData_decOK.1, h, by decide, by decide +kernel, by decide +kernel, fun _ => ?_⟩
  exact (notBinary_eq_false_iff _).1 (by decide +kernel : notBinary (bchData.arr .g) = false)
theorem rsData_encOK : rsData.EncOK 4 := by
  have h := polyDeg_isDegree (rsData.arr .g)
  rw [show polyDeg (rsData.arr .g) = 4 by decide +kernel] at h
  exact ⟨rsData_decOK.1, h, by decide, by decide +kernel, fun _ => by decide +kernel,
    fun hm => absurd hm (by decide +kernel)⟩
theorem witness_EncRule :
    State.reset.status.fv = false ∧ (gf16.status.fv = true ∧ ∀ r, ¬gf16.EncOK r) ∧
    (bchData.EncOK 8 ∧ bchData.Inv ∧ ∀ i, 8 ≤ i → i < bchData.n.toNat → (bchData.coef .cw i).toNat ≤ 1) ∧
    (rsData.EncOK 4 ∧ rsData.Inv ∧ rsData.mode = .rs) ∧
    (bchBadSymbol.mode = .bch ∧ 8 ≤ 14 ∧ 14 < bchBadSymbol.n.toNat ∧ 1 < (bchBadSymbol.coef .cw 14).toNat) := by
  refine ⟨rfl, ⟨by decide +kernel, fun r h => h.1.2.1 (by decide +kernel)⟩, ⟨bchData_encOK, bchData_inv, fun i h1 h2 => ?_⟩,
    ⟨rsData_encOK, rsData_inv, by decide +kernel⟩, by decide +kernel⟩
  have hall : ∀ i, i < 15 → 8 ≤ i → (bchData.coef .cw i).toNat ≤ 1 := by decide +kernel
  exact hall i (by have : bchData.n.toNat = 15 := by decide +kernel
                   omega) h1
theorem witness_DecoderChecks :
    State.reset.status.fv = false ∧ (noLength.status.fv = true ∧ ¬noLength.GeomOK ∧ ¬noLength.DecOK) ∧
    (shortBch.status.fv = true ∧ ¬shortBch.GeomOK) ∧ (noCapacity.status.fv = true ∧ ¬noCapacity.DecOK) ∧
    (tightCapacity.status.fv = true ∧ ¬tightCapacity.DecOK) ∧ Instr.synd ∈ decoderCommands := by
  unfold State.DecOK State.GeomOK State.ord
  decide +kernel
theorem bchOneError_bitsOK : bchOneError.BitsOK := by
  refine (State.needBits_eq_false_iff _).1 (by decide +kernel)
theorem rsTwoErrors_bitsOK : rsTwoErrors.BitsOK := fun h => absurd h (by decide +kernel)
theorem bchBadSymbol_bits : bchBadSymbol.DecOK ∧ ¬bchBadSymbol.BitsOK :=
  ⟨by unfold State.DecOK State.GeomOK State.ord; decide +kernel,
    fun h => absurd ((State.needBits_eq_false_iff _).2 h) (by decide +kernel)⟩
/-- For SyndRule, BmaRule, BmaGeneratesSyndromes, ChienRule, OmegaRule, ForneyRule, DecodeRunsThePhases,
PhaseCommandsMatchDecode and DecodeHasThreeOutcomes, in both modes. -/
theorem witness_DecoderCommands :
    State.reset.status.fv = false ∧ (noCapacity.status.fv = true ∧ ¬noCapacity.DecOK) ∧
    (bchBadSymbol.DecOK ∧ ¬bchBadSymbol.BitsOK) ∧
    (bchOneError.Inv ∧ bchOneError.ArraysWf ∧ bchOneError.DecOK ∧ bchOneError.BitsOK) ∧
    (rsTwoErrors.Inv ∧ rsTwoErrors.ArraysWf ∧ rsTwoErrors.DecOK ∧ rsTwoErrors.BitsOK) ∧
    (bchData.DecOK ∧ ∀ j, j < 2 * bchData.t.toNat → bchData.coef .syn j = 0) :=
  ⟨rfl, witness_DecoderChecks.2.2.2.1, bchBadSymbol_bits,
    ⟨bchOneError_inv, bchOneError_inv.1, bchOneError_decOK, bchOneError_bitsOK⟩,
    ⟨rsTwoErrors_inv, rsTwoErrors_inv.1, rsTwoErrors_decOK, rsTwoErrors_bitsOK⟩,
    ⟨bchData_decOK, by decide +kernel⟩⟩
/-- For CorrectRule and CorrectTwiceRestores: zero syndromes, two of the failure flags, and a completed search, also with a
listed position that is `N` itself. -/
theorem witness_CorrectRule :
    (((bchData.after .enc).after .synd).DecOK ∧ ((bchData.after .enc).after .synd).status.sz = true) ∧
    (rsSearched.DecOK ∧ rsSearched.status.sz = false ∧ ¬rsSearched.Failed) ∧
    ((rsSearched.after (.csetn 12)).DecOK ∧ (rsSearched.after (.csetn 12)).status.sz = false ∧
      ¬(rsSearched.after (.csetn 12)).Failed ∧
      ((rsSearched.after (.csetn 12)).coef .epos 1).toNat = (rsSearched.after (.csetn 12)).n.toNat) ∧
    (({ rsSearched with status := { rsSearched.status with fdz := true } } : State).DecOK ∧
      ({ rsSearched with status := { rsSearched.status with fdz := true } } : State).Failed) ∧
    (({ rsSearched with status := { rsSearched.status with rlm := true } } : State).DecOK ∧
      ({ rsSearched with status := { rsSearched.status with rlm := true } } : State).Failed) := by
  unfold State.Failed State.DecOK State.GeomOK State.ord
  decide +kernel
theorem witness_EncodedWordDecodesClean :
    (bchData.Inv ∧ bchData.EncOK 8 ∧ bchData.DecOK ∧
      ∀ j, 1 ≤ j → j ≤ 2 * bchData.t.toNat → bchData.valueAt .g (bchData.gf.alpha j) = 0) ∧
    (rsData.Inv ∧ rsData.EncOK 4 ∧ rsData.DecOK ∧
      ∀ j, 1 ≤ j → j ≤ 2 * rsData.t.toNat → rsData.valueAt .g (rsData.gf.alpha j) = 0) := by
  refine ⟨⟨bchData_inv, bchData_encOK, bchData_decOK, fun j h1 h2 => ?_⟩, rsData_inv, rsData_encOK, rsData_decOK,
    fun j h1 h2 => ?_⟩
  · rw [← State.polyEval_arr _ (bchData_inv.1 _)]
    have hall : ∀ j, j < 5 → 1 ≤ j → polyEval bchData.gf (bchData.arr .g) (bchData.gf.alpha j) = 0 := by decide +kernel
    exact hall j (by have : bchData.t.toNat = 2 := by decide +kernel
                     omega) h1
  · rw [← State.polyEval_arr _ (rsData_inv.1 _)]
    have hall : ∀ j, j < 5 → 1 ≤ j → polyEval rsData.gf (rsData.arr .g) (rsData.gf.alpha j) = 0 := by decide +kernel
    exact hall j (by have : rsData.t.toNat = 2 := by decide +kernel
                     omega) h1
/-- The code word of `bchOneError`, its error position and value. -/
def bchWord (i : Nat) : Cell := (bchData.after .enc).coef .cw i
theorem witness_DecodeCorrectsOneError :
    bchOneError.Inv ∧ bchOneError.DecOK ∧ bchOneError.InCode bchWord ∧
    (∀ i, i < bchOneError.n.toNat → bchOneError.isElement (bchWord i) ∧ (bchWord i).toNat ≤ 1) ∧
    bchOneError.isElement 1 ∧ (1 : Cell) ≠ 0 ∧ 5 < bchOneError.n.toNat ∧
    ∀ i, i < bchOneError.n.toNat → bchOneError.coef .cw i = if i = 5 then bchWord i ^^^ 1 else bchWord i := by
  unfold State.InCode State.isElement
  exact ⟨bchOneError_inv, bchOneError_decOK, by decide +kernel, by decide +kernel, by decide +kernel, by decide,
    by decide +kernel, by decide +kernel⟩
/-- The code word of `rsTwoErrors` and its two errors, T of them. -/
def rsWord (i : Nat) : Cell := (rsData.after .enc).coef .cw i
def rsErrors (i : Nat) : Cell := if i = 3 then 13 else if i = 12 then 5 else 0
theorem witness_DecodeCorrectsUpToT :
    rsTwoErrors.Inv ∧ rsTwoErrors.DecOK ∧ rsTwoErrors.InCode rsWord ∧
    (∀ i, i < rsTwoErrors.n.toNat → rsTwoErrors.isElement (rsWord i) ∧ rsTwoErrors.isElement (rsErrors i)) ∧
    [3, 12].Pairwise (· < ·) ∧ (∀ i, i ∈ [3, 12] ↔ i < rsTwoErrors.n.toNat ∧ rsErrors i ≠ 0) ∧
    1 ≤ [3, 12].length ∧ [3, 12].length ≤ rsTwoErrors.t.toNat ∧
    ∀ i, i < rsTwoErrors.n.toNat → rsTwoErrors.coef .cw i = rsWord i ^^^ rsErrors i := by
  have hn : rsTwoErrors.n.toNat = 15 := by decide +kernel
  unfold State.InCode State.isElement
  refine ⟨rsTwoErrors_inv, rsTwoErrors_decOK, by decide +kernel, by decide +kernel, by decide, fun i => ?_, by decide,
    by decide +kernel, by decide +kernel⟩
  rw [hn]
  simp only [List.mem_cons, List.not_mem_nil, or_false]
  constructor
  · rintro (rfl | rfl) <;> decide
  · rintro ⟨_, h⟩
    by_contra hc
    rw [not_or] at hc
    exact h (by rw [rsErrors, if_neg hc.1, if_neg hc.2])
theorem witness_SuccessLeavesACodeWord :
    rsTwoErrors.Inv ∧ rsTwoErrors.DecOK ∧ rsTwoErrors.BitsOK ∧
    exec .decode rsTwoErrors = .next (rsTwoErrors.after .decode) ∧ (rsTwoErrors.after .decode).status.ok = true := by
  refine ⟨rsTwoErrors_inv, rsTwoErrors_decOK, rsTwoErrors_bitsOK, ?_, by decide +kernel⟩
  rw [State.after]
  have h := attempt_of_none (f := fun s => succeed (flagValue s.decodePhase.status.ok) s.decodePhase)
    (by decide +kernel : firstFailing (rsTwoErrors.decChecks ++ [rsTwoErrors.needBits]) = none) rsTwoErrors
  have h' : exec .decode rsTwoErrors = .next (rsTwoErrors.decodePhase.answered _) := h.trans (succeed_eq _ _)
  rw [h']
/-- For NotReadyCommands, FieldIsLocked, RegisterWriters, ArrayWriters, KindsEachCommandRaises and ResetRule. -/
theorem witness_WholeMachine :
    (needsField .enc = true ∧ State.reset.status.fv = false ∧ exec .enc .reset = .next (State.reset.faulted 5)) ∧
    (Instr.nop ≠ .reset ∧ gf16.status.fv = true ∧ gf16.Inv ∧ exec .nop gf16 = .next (gf16.after .nop)) ∧
    (exec (.fsetm 3) .reset = .next (State.reset.after (.fsetm 3)) ∧ ArrSel.cw ∉ writesArrays (.fsetm 3)) ∧
    ((5 : BitVec 4) ≠ 0 ∧ (5 : BitVec 4) ∈ mayRaise .enc) :=
  ⟨⟨rfl, rfl, rfl⟩, ⟨by decide, by decide +kernel, gf16_inv, rfl⟩, ⟨rfl, by decide⟩, by decide, by decide⟩
/-- For ArrayWriters on the cells of `CW` above `N` = 15: the first, the last, and other contents there. -/
theorem witness_ArrayWriters :
    isCodec .bma = true ∧ exec .bma rsTwoErrors = .next (rsTwoErrors.after .bma) ∧
    (rsTwoErrors.n.toNat ≤ 15 ∧ 15 < 4096) ∧ (rsTwoErrors.n.toNat ≤ 4095 ∧ 4095 < 4096) ∧
    ∀ k, k < rsTwoErrors.n.toNat → Memory.read (rsTwoErrors.arr .cw ++ [7, 9]) k = rsTwoErrors.coef .cw k := by
  refine ⟨rfl, ?_, by decide +kernel, by decide +kernel, by decide +kernel⟩
  rw [State.after, exec, execBma, attempt_of_none (State.firstFailing_decChecks _ |>.2.2 rsTwoErrors_decOK), succeed_eq]
/-- Other contents in cells no command observes: `EXP[15]` and `LOG[0]` in GF(2^4). -/
theorem witness_UnobservableTableCells :
    gf16.Inv ∧ gf16.status.fv = true ∧ (∀ k, k < gf16.ord → (gf16.exp ++ [7]).getD k 0 = gf16.expCell k) ∧
    ∀ a : Cell, a ≠ 0 → gf16.isElement a → ((gf16.log.set 0 9).getD a.toNat 0).toNat = gf16.logCell a := by
  refine ⟨gf16_inv, by decide +kernel, by decide +kernel, fun a ha _ => ?_⟩
  have hne : 0 ≠ a.toNat := fun h => ha (by apply BitVec.eq_of_toNat_eq; simpa using h.symm)
  simp only [State.logCell, List.getD_eq_getElem?_getD, List.getElem?_set_ne hne]
theorem witness_StepKeepsInvariant : gf16.Inv ∧ step gf16 = .next gf16 := by
  refine ⟨gf16_inv, ?_⟩
  have h : gf16.pending = [] := by decide +kernel
  rw [step, h]

end Sys2Proof.Tests
end

/-! ## Every command as checks, an effect and a result

The layer the statements about all commands at once go through: `exec` says a command's checks, its effect and its
result in one term; here they are three functions, and `exec_cases` says once what a command can do. -/

namespace Sys2Proof.Machine

/-- The checks of a command, in the order they are made (60_exceptions.md R253). -/
def commandChecks : Instr → State → List (Bool × FaultKind)
  | .nop, _ | .reset, _ | .rdcsr _, _ => []
  | .fsetm m, s => [s.needUnlocked, (m.toNat < Config.mMin || Config.mMax < m.toNat, .invalidParameters)]
  | .fsetp _, s => [s.needUnlocked]
  | .finit, s =>
    [s.needUnlocked, (s.m.toNat < Config.mMin || Config.mMax < s.m.toNat, .invalidParameters),
      (!degreeIs s.m.toNat s.prim, .invalidParameters), (!alphaHasFullOrder s.m.toNat s.prim, .invalidParameters)]
  | .fadd a b, s | .fmul a b, s => [s.needField, s.needElement a, s.needElement b]
  | .fdiv a b, s => [s.needField, s.needElement a, s.needElement b, (b == 0, .divideByZero)]
  | .finv a, s => [s.needField, s.needElement a, (a == 0, .divideByZero)]
  | .flog a, s => [s.needField, s.needElement a, (a == 0, .logOfZero)]
  | .fpow a _, s | .fisprim a, s | .pwr _ _ a, s | .peval _ a, s => [s.needField, s.needElement a]
  | .fexp _, s | .prd _ _, s | .pclr _, s | .pmov _ _, s | .pdeg _, s | .pisz _, s | .padd _ _ _, s
  | .csetmode _, s => [s.needField]
  | .pmul _ pa pb, s => [s.needField, (productOverflows (s.arr pa) (s.arr pb), .overflow)]
  | .pdivmod _ pb, s => [s.needField, (polyIsZero (s.arr pb), .divideByZero)]
  | .csetn n, s => [s.needField, (n.toNat < 1 || 2 ^ s.m.toNat - 1 < n.toNat, .invalidParameters)]
  | .csett t, s | .genb t, s => [s.needField, (s.badCapacity t, .invalidParameters)]
  | .geng rho, s => [s.needField, (rho.toNat < 1 || 2 ^ s.m.toNat - 2 < rho.toNat, .invalidParameters)]
  | .enc, s =>
    s.geomChecks ++
      [(polyIsZero s.arrays.g, .invalidParameters),
        (s.parityLength < 1 || s.n.toNat - 1 < s.parityLength, .invalidParameters),
        (s.mode == .rs && s.n.toNat != 2 ^ s.m.toNat - 1, .invalidParameters),
        (s.mode == .bch && notBinary s.arrays.g, .invalidParameters),
        (s.mode == .bch && notBinary s.dataSymbols, .operandRange)]
  | .synd, s | .decode, s => s.decChecks ++ [s.needBits]
  | .bma, s | .chien, s | .omega, s | .forney, s | .correct, s => s.decChecks

/-- What a command whose checks pass does to the state, its result and response left aside. -/
def commandEffect : Instr → State → State
  | .reset, s => s.resetCore
  | .fsetm m, s => s.setField (m.setWidth 4) (defPoly m.toNat)
  | .fsetp p, s => s.setPrim p
  | .finit, s => s.buildField
  | .pwr sel i c, s => s.setArr sel (Memory.put (s.arr sel) i.toNat c)
  | .pclr pd, s => s.setArr pd []
  | .pmov pd pa, s => s.setArr pd (s.arr pa)
  | .padd pd pa pb, s => s.setArr pd (polyAdd (s.arr pa) (s.arr pb))
  | .pmul pd pa pb, s => s.setArr pd (polyMul s.gf (s.arr pa) (s.arr pb))
  | .pdivmod pa pb, s =>
    (s.setArr .qt (polyDivmod s.gf (s.arr pa) (s.arr pb)).1).setArr .rm (polyDivmod s.gf (s.arr pa) (s.arr pb)).2
  | .csetn n, s => s.setN n
  | .csett t, s => s.setT (t.setWidth 11)
  | .csetmode mode, s => s.setMode mode
  | .geng rho, s => s.setArr .g (genRoots s.gf rho.toNat)
  | .genb t, s => s.setArr .g (genBinary s.gf t.toNat)
  | .enc, s => s.encodeWord
  | .synd, s => s.syndPhase
  | .bma, s => s.bmaPhase
  | .chien, s => s.chienPhase
  | .omega, s => s.omegaPhase
  | .forney, s => s.forneyPhase
  | .correct, s => s.correctPhase
  | .decode, s => s.decodePhase
  | .nop, s | .rdcsr _, s | .fadd _ _, s | .fmul _ _, s | .fdiv _ _, s | .finv _, s | .fpow _ _, s | .fisprim _, s
  | .fexp _, s | .flog _, s | .prd _ _, s | .pdeg _, s | .pisz _, s | .peval _ _, s => s

/-- The result of a command whose checks pass (10_state.md R40), from the state before it. `NOP` answers the unchanged
`RES` (40_system.md R111), which writes it again. -/
def commandValue : Instr → State → BitVec 16
  | .nop, s => s.res
  | .rdcsr c, s => s.csrValue c
  | .fadd a b, _ => cellValue (gfAdd a b)
  | .fmul a b, s => cellValue (s.gf.mul a b)
  | .fdiv a b, s => cellValue (s.gf.quot a b)
  | .finv a, s => cellValue (s.gf.inv a)
  | .fpow a e, s => cellValue (s.gf.pow a e.toNat)
  | .fisprim a, s => flagValue (s.gf.isPrimitive a)
  | .fexp i, s => cellValue (s.gf.alpha i.toNat)
  | .flog a, s => countValue (s.gf.logAt a)
  | .prd sel i, s => cellValue (Memory.read (s.arr sel) i.toNat)
  | .pdeg pa, s => countValue (polyDeg (s.arr pa))
  | .pisz pa, s => flagValue (polyIsZero (s.arr pa))
  | .peval pa x, s => cellValue (polyEval s.gf (s.arr pa) x)
  | .geng rho, _ => cellValue rho
  | .genb t, s => countValue (polyDeg (genBinary s.gf t.toNat))
  | .synd, s => flagValue s.syndPhase.status.sz
  | .bma, s => cellValue s.bmaPhase.l
  | .chien, s => cellValue s.chienPhase.nroots
  | .forney, s => flagValue s.forneyPhase.status.fdz
  | .correct, s => flagValue s.correctPhase.status.ok
  | .decode, s => flagValue s.decodePhase.status.ok
  | .reset, _ | .fsetm _, _ | .fsetp _, _ | .finit, _ | .pwr _ _ _, _ | .pclr _, _ | .pmov _ _, _ | .padd _ _ _, _
  | .pmul _ _ _, _ | .pdivmod _ _, _ | .csetn _, _ | .csett _, _ | .csetmode _, _ | .enc, _ | .omega, _ => 0

/-- Every command is its checks, then its effect and its result. -/
theorem exec_eq (i : Instr) (s : State) :
    exec i s = attempt (commandChecks i s) s fun s => succeed (commandValue i s) (commandEffect i s) := by
  cases i <;> rfl

theorem exec_of_pass {i : Instr} {s : State} (h : firstFailing (commandChecks i s) = none) :
    exec i s = .next ((commandEffect i s).answered (commandValue i s)) := by
  rw [exec_eq, attempt_of_none h, succeed_eq]

theorem exec_of_fail {i : Instr} {s : State} {k : FaultKind} (h : firstFailing (commandChecks i s) = some k) :
    exec i s = .next (s.faulted k.code) := by
  rw [exec_eq, attempt_of_some h]

/-- Everything a command can do: fault with the kind of its first failing check, or take its effect and answer. -/
theorem exec_cases {i : Instr} {s t : State} (h : exec i s = .next t) :
    (∃ k, firstFailing (commandChecks i s) = some k ∧ t = s.faulted k.code) ∨
    (firstFailing (commandChecks i s) = none ∧ t = (commandEffect i s).answered (commandValue i s)) := by
  cases hf : firstFailing (commandChecks i s) with
  | some k => exact .inl ⟨k, rfl, by rw [exec_of_fail hf] at h; exact (Host.Outcome.next.inj h).symm⟩
  | none => exact .inr ⟨rfl, by rw [exec_of_pass hf] at h; exact (Host.Outcome.next.inj h).symm⟩

/-! ### The first check -/

/-- A command whose first check fails faults with that check's kind, whatever the others say. -/
theorem firstFailing_of_head {cs : List (Bool × FaultKind)} {k : FaultKind} (h : cs.head? = some (true, k)) :
    firstFailing cs = some k := by
  obtain ⟨rest, rfl⟩ := List.head?_eq_some_iff.1 h
  simp

theorem head_commandChecks_of_needsField {i : Instr} (hi : needsField i = true) (s : State) :
    (commandChecks i s).head? = some s.needField := by
  cases i with
  | nop | reset | rdcsr | fsetm | fsetp | finit => cases hi
  | _ => rfl

/-- Without a field a command that needs one faults `NotReady` (60_exceptions.md R246). -/
theorem firstFailing_of_needsField {i : Instr} {s : State} (hi : needsField i = true) (hf : s.status.fv = false) :
    firstFailing (commandChecks i s) = some .notReady :=
  firstFailing_of_head (by rw [head_commandChecks_of_needsField hi, State.needField, hf]; rfl)

/-! ### The kinds a command's checks can raise -/

/-- A command checks for the kinds listed for it only (60_exceptions.md R258). -/
theorem check_code_mem_mayRaise {i : Instr} {s : State} {c : Bool × FaultKind} (h : c ∈ commandChecks i s) :
    c.2.code ∈ mayRaise i := by
  have hall : ((commandChecks i s).map Prod.snd).all (fun k => (mayRaise i).contains k.code) = true := by
    cases i <;> rfl
  simpa using List.all_eq_true.1 hall c.2 (List.mem_map_of_mem h)

theorem failing_code_mem_mayRaise {i : Instr} {s : State} {k : FaultKind}
    (h : firstFailing (commandChecks i s) = some k) : k.code ∈ mayRaise i :=
  check_code_mem_mayRaise (firstFailing_mem h)

/-- No command raises the reserved kind (60_exceptions.md R245). -/
theorem kind_ne_lengthMismatch {i : Instr} {s : State} {k : FaultKind}
    (h : firstFailing (commandChecks i s) = some k) : k ≠ .lengthMismatch := by
  rintro rfl
  have hno : (mayRaise i).contains FaultKind.lengthMismatch.code = false := by cases i <;> rfl
  exact Bool.false_ne_true (hno.symm.trans (List.contains_iff_mem.2 (failing_code_mem_mayRaise h)))

/-- Only a construction command raises `Locked`, and only with a field (60_exceptions.md R251). -/
theorem locked_of_firstFailing {i : Instr} {s : State} (h : firstFailing (commandChecks i s) = some .locked) :
    s.status.fv = true ∧ (i = .finit ∨ (∃ m, i = .fsetm m) ∨ ∃ p, i = .fsetp p) := by
  have hkind : (mayRaise i).contains FaultKind.locked.code = true :=
    List.contains_iff_mem.2 (failing_code_mem_mayRaise h)
  have hcheck := firstFailing_mem h
  cases i with
  | fsetm m => exact ⟨by simpa [commandChecks, State.needUnlocked] using hcheck, by simp⟩
  | fsetp p => exact ⟨by simpa [commandChecks, State.needUnlocked] using hcheck, by simp⟩
  | finit => exact ⟨by simpa [commandChecks, State.needUnlocked] using hcheck, by simp⟩
  | _ => cases hkind

end Sys2Proof.Machine

/-! ## What the commands leave unchanged -/

namespace Sys2Proof.Machine

/-- The configuration, the field, the fault registers and the ports of `s'` are those of `s`. -/
structure KeepsSetup (s s' : State) : Prop where
  m : s'.m = s.m
  prim : s'.prim = s.prim
  n : s'.n = s.n
  t : s'.t = s.t
  mode : s'.mode = s.mode
  fv : s'.status.fv = s.status.fv
  exp : s'.exp = s.exp
  log : s'.log = s.log
  lasterr : s'.lasterr = s.lasterr
  esticky : s'.esticky = s.esticky
  pending : s'.pending = s.pending
  responses : s'.responses = s.responses

namespace KeepsSetup

variable {s s' s'' : State}

theorem refl (s : State) : KeepsSetup s s := ⟨rfl, rfl, rfl, rfl, rfl, rfl, rfl, rfl, rfl, rfl, rfl, rfl⟩

theorem trans (h : KeepsSetup s s') (h' : KeepsSetup s' s'') : KeepsSetup s s'' :=
  ⟨h'.m.trans h.m, h'.prim.trans h.prim, h'.n.trans h.n, h'.t.trans h.t, h'.mode.trans h.mode, h'.fv.trans h.fv,
    h'.exp.trans h.exp, h'.log.trans h.log, h'.lasterr.trans h.lasterr, h'.esticky.trans h.esticky,
    h'.pending.trans h.pending, h'.responses.trans h.responses⟩

theorem setArr (h : KeepsSetup s s') (sel : ArrSel) (p : List Cell) : KeepsSetup s (s'.setArr sel p) := { h with }

theorem setBm (h : KeepsSetup s s') (l pos bd : BitVec 12) : KeepsSetup s (s'.setBm l pos bd) := { h with }

theorem setNroots (h : KeepsSetup s s') (k : BitVec 12) : KeepsSetup s (s'.setNroots k) := { h with }

theorem setEcnt (h : KeepsSetup s s') (k : BitVec 12) : KeepsSetup s (s'.setEcnt k) := { h with }

/-- Every flag but `FV` may change. -/
theorem setStatus (h : KeepsSetup s s') (sz ok tmr rlm fdz : Bool) :
    KeepsSetup s (s'.setStatus ⟨s'.status.fv, sz, ok, tmr, rlm, fdz⟩) := { h with }

end KeepsSetup

section Phases

variable (s : State)

theorem State.encodeWord_keepsSetup : KeepsSetup s s.encodeWord := (KeepsSetup.refl s).setArr _ _

theorem State.syndPhase_keepsSetup : KeepsSetup s s.syndPhase := ((KeepsSetup.refl s).setArr _ _).setStatus _ _ _ _ _

theorem State.bmaPhase_keepsSetup : KeepsSetup s s.bmaPhase :=
  (((KeepsSetup.refl s).setArr _ _).setArr _ _).setBm _ _ _

theorem State.chienPhase_keepsSetup : KeepsSetup s s.chienPhase :=
  (((KeepsSetup.refl s).setArr _ _).setNroots _).setStatus _ _ _ _ _

theorem State.omegaPhase_keepsSetup : KeepsSetup s s.omegaPhase := (KeepsSetup.refl s).setArr _ _

theorem State.forneyPhase_keepsSetup : KeepsSetup s s.forneyPhase :=
  ((KeepsSetup.refl s).setArr _ _).setStatus _ _ _ _ _

theorem State.applyCorrection_keepsSetup : KeepsSetup s s.applyCorrection :=
  (((KeepsSetup.refl s).setArr _ _).setEcnt _).setStatus _ _ _ _ _

theorem State.correctPhase_keepsSetup : KeepsSetup s s.correctPhase := by
  rw [State.correctPhase]
  split
  · exact ((KeepsSetup.refl s).setEcnt _).setStatus _ _ _ _ _
  · split
    · exact ((KeepsSetup.refl s).setEcnt _).setStatus _ _ _ _ _
    · exact s.applyCorrection_keepsSetup

theorem State.clearDecode_keepsSetup : KeepsSetup s s.clearDecode :=
  (((((KeepsSetup.refl s).setNroots _).setArr _ _).setArr _ _).setEcnt _).setStatus _ _ _ _ _

theorem State.magnitudePhase_keepsSetup : KeepsSetup s s.magnitudePhase := by
  rw [State.magnitudePhase]
  split
  · exact .refl s
  · exact s.omegaPhase_keepsSetup.trans s.omegaPhase.forneyPhase_keepsSetup

theorem State.finishDecode_keepsSetup : KeepsSetup s s.finishDecode := by
  rw [State.finishDecode]
  split
  · exact .refl s
  · dsimp only
    split
    · exact s.magnitudePhase_keepsSetup
    · exact s.magnitudePhase_keepsSetup.trans s.magnitudePhase.applyCorrection_keepsSetup

theorem State.decodePhase_keepsSetup : KeepsSetup s s.decodePhase := by
  have hsynd : KeepsSetup s s.clearDecode.syndPhase :=
    s.clearDecode_keepsSetup.trans s.clearDecode.syndPhase_keepsSetup
  rw [State.decodePhase]
  dsimp only
  split
  · exact hsynd.setStatus _ _ _ _ _
  · exact ((hsynd.trans (State.bmaPhase_keepsSetup _)).trans (State.chienPhase_keepsSetup _)).trans
      (State.finishDecode_keepsSetup _)

end Phases

/-- A command that is neither `RESET` nor a setter of the field or of the code keeps the whole setup. -/
theorem commandEffect_setup_cases (i : Instr) (s : State) :
    i = .reset ∨ (∃ m, i = .fsetm m) ∨ (∃ p, i = .fsetp p) ∨ i = .finit ∨ (∃ n, i = .csetn n) ∨ (∃ c, i = .csett c) ∨
    (∃ mode, i = .csetmode mode) ∨ KeepsSetup s (commandEffect i s) := by
  cases i
  case enc => simp [commandEffect, s.encodeWord_keepsSetup]
  case synd => simp [commandEffect, s.syndPhase_keepsSetup]
  case bma => simp [commandEffect, s.bmaPhase_keepsSetup]
  case chien => simp [commandEffect, s.chienPhase_keepsSetup]
  case omega => simp [commandEffect, s.omegaPhase_keepsSetup]
  case forney => simp [commandEffect, s.forneyPhase_keepsSetup]
  case correct => simp [commandEffect, s.correctPhase_keepsSetup]
  case decode => simp [commandEffect, s.decodePhase_keepsSetup]
  case pdivmod pa pb => simp [commandEffect, ((KeepsSetup.refl s).setArr .qt _).setArr .rm _]
  all_goals simp [commandEffect, KeepsSetup.refl s, (KeepsSetup.refl s).setArr]

/-- No command touches the response list before it answers. -/
theorem commandEffect_responses (i : Instr) (s : State) : (commandEffect i s).responses = s.responses := by
  obtain rfl | ⟨m, rfl⟩ | ⟨p, rfl⟩ | rfl | ⟨n, rfl⟩ | ⟨c, rfl⟩ | ⟨mode, rfl⟩ | h := commandEffect_setup_cases i s
  case inr.inr.inr.inr.inr.inr.inr => exact h.responses
  all_goals rfl

/-- The registers and flags of the decoder in `s'` are those of `s`. -/
structure KeepsDecoder (s s' : State) : Prop where
  l : s'.l = s.l
  pos : s'.pos = s.pos
  bd : s'.bd = s.bd
  nroots : s'.nroots = s.nroots
  ecnt : s'.ecnt = s.ecnt
  sz : s'.status.sz = s.status.sz
  ok : s'.status.ok = s.status.ok
  tmr : s'.status.tmr = s.status.tmr
  rlm : s'.status.rlm = s.status.rlm
  fdz : s'.status.fdz = s.status.fdz

/-- Only decoder commands and `RESET` write the decoder's registers and flags. -/
theorem commandEffect_keepsDecoder {i : Instr} (s : State) (hreset : i ≠ .reset) (h : i ∉ decoderCommands) :
    KeepsDecoder s (commandEffect i s) := by
  cases i
  case reset => exact absurd rfl hreset
  case synd | bma | chien | omega | forney | correct | decode => exact absurd (by simp [decoderCommands]) h
  all_goals exact ⟨rfl, rfl, rfl, rfl, rfl, rfl, rfl, rfl, rfl, rfl⟩

/-- `CORRECT` writes `ECNT` and `OK` only, of the decoder's registers and flags (44_decoder.md R223). -/
theorem State.correctPhase_registers (s : State) :
    s.correctPhase.l = s.l ∧ s.correctPhase.pos = s.pos ∧ s.correctPhase.bd = s.bd ∧
    s.correctPhase.nroots = s.nroots ∧ s.correctPhase.status = { s.status with ok := s.correctPhase.status.ok } := by
  rw [State.correctPhase]
  split
  · exact ⟨rfl, rfl, rfl, rfl, rfl⟩
  · split <;> exact ⟨rfl, rfl, rfl, rfl, rfl⟩

end Sys2Proof.Machine

/-! ## Reset, the lock and the writers -/

namespace Sys2Proof.Machine

/-- Settles O13: the reset state's fields one by one, and both resets reach it. -/
theorem resetValues : Obligations.ResetValues := by
  refine ⟨rfl, rfl, rfl, rfl, rfl, rfl, fun sel i => ?_, rfl, rfl, rfl, rfl, rfl, rfl, rfl, rfl,
    fun s => ⟨_, rfl, rfl⟩, fun s es hp => ⟨_, by rw [step, hp], rfl⟩⟩
  rw [State.coef, State.reset_arr, Memory.read_nil]

/-- Settles O59: no array holds a cell, there is no field, and the fault registers are 0. -/
theorem resetMeetsInvariant : Obligations.ResetMeetsInvariant := by
  refine ⟨fun sel => by simp, ⟨fun hf => ?_, fun _ => ⟨State.reset_arr, rfl, rfl⟩⟩, by decide, by decide, by decide⟩
  cases hf

/-- With a field, a command other than `RESET` whose checks pass changes no part of the field (10_state.md R25). -/
theorem commandEffect_keeps_field {i : Instr} {s : State} (hi : i ≠ .reset) (hf : s.status.fv = true)
    (hpass : firstFailing (commandChecks i s) = none) :
    (commandEffect i s).m = s.m ∧ (commandEffect i s).prim = s.prim ∧ (commandEffect i s).exp = s.exp ∧
    (commandEffect i s).log = s.log ∧ (commandEffect i s).status.fv = true := by
  obtain rfl | ⟨m, rfl⟩ | ⟨p, rfl⟩ | rfl | ⟨n, rfl⟩ | ⟨c, rfl⟩ | ⟨mode, rfl⟩ | h := commandEffect_setup_cases i s
  · exact absurd rfl hi
  iterate 3 simp [commandChecks, State.needUnlocked, hf] at hpass
  iterate 3 exact ⟨rfl, rfl, rfl, rfl, hf⟩
  exact ⟨h.m, h.prim, h.exp, h.log, h.fv.trans hf⟩

/-- Settles O54: the lock is the first check of the construction commands and of no other, and every command that passes
it with a field keeps the field. -/
theorem fieldIsLocked : Obligations.FieldIsLocked := by
  refine ⟨fun s m p hf => ?_, fun i s h => ?_, fun i s t hi hf h => ?_⟩
  · have hfail : ∀ i : Instr, (commandChecks i s).head? = some s.needUnlocked → exec i s = .next (s.faulted 9) := by
      intro i hhead
      exact exec_of_fail (firstFailing_of_head (by rw [hhead, State.needUnlocked, hf]))
    exact ⟨hfail _ rfl, hfail _ rfl, hfail _ rfl⟩
  · obtain ⟨k, hk, he⟩ | ⟨-, he⟩ := exec_cases h
    · have hlocked : FaultKind.locked = k := FaultKind.code_injective (State.faulted_injective he)
      subst hlocked
      exact locked_of_firstFailing hk
    · exact absurd he.symm (State.answered_ne_faulted s _ _ (by decide) (commandEffect_responses i s))
  · obtain ⟨k, -, rfl⟩ | ⟨hpass, rfl⟩ := exec_cases h
    · exact ⟨rfl, rfl, rfl, rfl, hf⟩
    · exact commandEffect_keeps_field hi hf hpass

/-! ### Who writes which register -/

section Writers

variable {i : Instr} {s : State}

/-- The registers of the configuration and of the field, each with the commands that write it (10_state.md R22 to R26,
R34 to R36). -/
theorem setup_writers (hi : i ≠ .reset) :
    ((commandEffect i s).m ≠ s.m → ∃ m, i = .fsetm m) ∧
    ((commandEffect i s).prim ≠ s.prim → (∃ m, i = .fsetm m) ∨ ∃ p, i = .fsetp p) ∧
    ((commandEffect i s).n ≠ s.n → ∃ n, i = .csetn n) ∧
    ((commandEffect i s).t ≠ s.t → ∃ c, i = .csett c) ∧
    ((commandEffect i s).mode ≠ s.mode → ∃ mode, i = .csetmode mode) ∧
    ((commandEffect i s).status.fv ≠ s.status.fv ∨ (commandEffect i s).exp ≠ s.exp ∨ (commandEffect i s).log ≠ s.log →
      i = .finit) := by
  obtain rfl | ⟨m, rfl⟩ | ⟨p, rfl⟩ | rfl | ⟨n, rfl⟩ | ⟨c, rfl⟩ | ⟨mode, rfl⟩ | h := commandEffect_setup_cases i s
  · exact absurd rfl hi
  case inr.inr.inr.inr.inr.inr.inr => simp [h.m, h.prim, h.n, h.t, h.mode, h.fv, h.exp, h.log]
  all_goals simp [commandEffect, State.buildField]

/-- The registers and flags of the decoder, each with the commands that write it (10_state.md R37 to R39). -/
theorem decoder_writers (hi : i ≠ .reset) :
    ((commandEffect i s).l ≠ s.l ∨ (commandEffect i s).pos ≠ s.pos ∨ (commandEffect i s).bd ≠ s.bd →
      i = .bma ∨ i = .decode) ∧
    ((commandEffect i s).nroots ≠ s.nroots ∨ (commandEffect i s).status.tmr ≠ s.status.tmr ∨
      (commandEffect i s).status.rlm ≠ s.status.rlm → i = .chien ∨ i = .decode) ∧
    ((commandEffect i s).ecnt ≠ s.ecnt ∨ (commandEffect i s).status.ok ≠ s.status.ok → i = .correct ∨ i = .decode) ∧
    ((commandEffect i s).status.sz ≠ s.status.sz → i = .synd ∨ i = .decode) ∧
    ((commandEffect i s).status.fdz ≠ s.status.fdz → i = .forney ∨ i = .decode) := by
  by_cases hdec : i ∈ decoderCommands
  · simp only [decoderCommands, List.mem_cons, List.not_mem_nil, or_false] at hdec
    obtain rfl | rfl | rfl | rfl | rfl | rfl | rfl := hdec
    case inr.inr.inr.inr.inr.inl =>
      obtain ⟨hl, hpos, hbd, hnroots, hstatus⟩ := s.correctPhase_registers
      simp only [commandEffect, hl, hpos, hbd, hnroots]
      rw [hstatus]
      simp
    all_goals simp [commandEffect, State.syndPhase, State.bmaPhase, State.chienPhase, State.omegaPhase,
      State.forneyPhase]
  · have h := commandEffect_keepsDecoder s hi hdec
    simp [h.l, h.pos, h.bd, h.nroots, h.ecnt, h.sz, h.ok, h.tmr, h.rlm, h.fdz]

end Writers

/-- Settles O55: a fault writes none of these registers, and an effect writes those of its command. -/
theorem registerWriters : Obligations.RegisterWriters := by
  intro i s t h hi
  obtain ⟨k, -, rfl⟩ | ⟨-, rfl⟩ := exec_cases h
  · simp
  · obtain ⟨hm, hprim, hn, ht, hmode, hfield⟩ := setup_writers (s := s) hi
    obtain ⟨hbm, hchien, hcorrect, hsynd, hforney⟩ := decoder_writers (s := s) hi
    exact ⟨hm, hprim, hn, ht, hmode, hfield, hbm, hchien, hcorrect, hsynd, hforney⟩

end Sys2Proof.Machine

/-! ## The tables of the field

R124's sequence is the iteration of one step on 1, so R28 is a statement about an orbit: an accepted polynomial gives 1
the period `ORD`, and the `ORD` values of one period are distinct and nonzero, which makes them all the nonzero elements. -/

namespace Sys2Proof.Machine

/-! ### One step of R124 -/

/-- `M` and `PRIM` as `FINIT` accepts them (41_field.md R125 checks 3 to 5). -/
structure AcceptedField (m : Nat) (prim : BitVec 13) : Prop where
  three_le : 3 ≤ m
  le_twelve : m ≤ 12
  degree : prim.toNat / 2 ^ m = 1
  fullOrder : alphaHasFullOrder m prim = true

theorem State.FieldReady.accepted {s : State} (h : s.FieldReady) : AcceptedField s.m.toNat s.prim := by
  obtain ⟨-, hlow, hhigh, hdeg, horder, -, -⟩ := h
  exact ⟨hlow, hhigh, by simpa [degreeIs] using hdeg, horder⟩

theorem pow_le_of_le_twelve {m : Nat} (h : m ≤ 12) : 2 ^ m ≤ 4096 := Nat.pow_le_pow_right (by decide) h

theorem eight_le_pow {m : Nat} (h : 3 ≤ m) : 8 ≤ 2 ^ m := Nat.pow_le_pow_right (n := 2) (by decide) h

/-- Below 2^M the step on bit vectors is doubling modulo the polynomial on numbers. -/
theorem toNat_timesAlpha {m : Nat} (hm : m ≤ 12) (prim : BitVec 13) {v : BitVec 13} (hv : v.toNat < 2 ^ m) :
    (timesAlpha m prim v).toNat = doubleMod m prim.toNat v.toNat := by
  have hpow := pow_le_of_le_twelve hm
  have hd : (v <<< 1).toNat = 2 * v.toNat := by
    rw [BitVec.toNat_shiftLeft, Nat.shiftLeft_eq, Nat.mod_eq_of_lt (by omega), Nat.mul_comm, pow_one]
  simp only [timesAlpha, doubleMod, BitVec.getLsbD, hd]
  split
  · rw [BitVec.toNat_xor, hd]
  · exact hd

/-- Doubling modulo a polynomial of degree `m` stays below `2^m`. -/
theorem doubleMod_lt {m p v : Nat} (hp : p / 2 ^ m = 1) (hv : v < 2 ^ m) : doubleMod m p v < 2 ^ m := by
  have hpos : 0 < 2 ^ m := Nat.two_pow_pos m
  have hdouble : 2 * v < 2 ^ m * 2 := by omega
  have hq : 2 * v / 2 ^ m < 2 := Nat.div_lt_of_lt_mul hdouble
  rw [doubleMod]
  split
  · rename_i hbit
    have hone : 2 * v / 2 ^ m = 1 := by
      rw [Nat.testBit_eq_decide_div_mod_eq, Nat.mod_eq_of_lt hq] at hbit
      simpa using hbit
    rw [← Nat.div_eq_zero_iff_lt hpos, Nat.xor_div_two_pow, hone, hp]
    rfl
  · rename_i hbit
    have hne : 2 * v / 2 ^ m ≠ 1 := by
      rw [Nat.testBit_eq_decide_div_mod_eq, Nat.mod_eq_of_lt hq] at hbit
      simpa using hbit
    exact (Nat.div_eq_zero_iff_lt hpos).1 (Nat.lt_one_iff.1 (Nat.lt_of_le_of_ne (Nat.le_of_lt_succ hq) hne))

@[simp] theorem timesAlpha_zero (m : Nat) (prim : BitVec 13) : timesAlpha m prim 0 = 0 := by simp [timesAlpha]

/-- `seq[i]` of R124 on bit vectors, `seq[0] = 1`. -/
def alphaIterate (m : Nat) (prim : BitVec 13) (i : Nat) : BitVec 13 := (timesAlpha m prim)^[i] 1

theorem alphaSeqFrom_eq (m : Nat) (prim : BitVec 13) (count : Nat) (v : BitVec 13) :
    alphaSeqFrom m prim count v = (List.range count).map fun i => (timesAlpha m prim)^[i + 1] v := by
  induction count generalizing v with
  | zero => rfl
  | succ count ih =>
    rw [alphaSeqFrom, ih, List.range_succ_eq_map, List.map_cons, List.map_map]
    rfl

/-- The sequence with its last value `seq[ORD]` split off. -/
theorem alphaSeq_eq {m : Nat} (hm : 0 < m) (prim : BitVec 13) :
    alphaSeq m prim =
      ((List.range (2 ^ m - 2)).map fun i => alphaIterate m prim (i + 1)) ++ [alphaIterate m prim (2 ^ m - 1)] := by
  have hpow : 2 ≤ 2 ^ m := Nat.pow_le_pow_right (n := 2) (by decide) hm
  rw [alphaSeq, alphaSeqFrom_eq, show 2 ^ m - 1 = 2 ^ m - 2 + 1 by omega, List.range_succ, List.map_append]
  rfl

/-! ### The orbit of 1 -/

namespace AcceptedField

variable {m : Nat} {prim : BitVec 13}

theorem order_bounds (h : AcceptedField m prim) : 7 ≤ 2 ^ m - 1 ∧ 2 ^ m - 1 < 4096 := by
  have hlow := eight_le_pow h.three_le
  have hhigh := pow_le_of_le_twelve h.le_twelve
  omega

/-- The powers of α return to 1 at `ORD` and not before (R125 check 5). -/
theorem iterate_order (h : AcceptedField m prim) :
    alphaIterate m prim (2 ^ m - 1) = 1 ∧ ∀ i, 1 ≤ i → i < 2 ^ m - 1 → alphaIterate m prim i ≠ 1 := by
  have horder := h.fullOrder
  rw [alphaHasFullOrder, alphaSeq_eq (by have := h.three_le; omega)] at horder
  simp only [List.dropLast_concat, List.getLast?_concat, Bool.and_eq_true, List.all_map, List.all_eq_true,
    List.mem_range, Function.comp_apply, bne_iff_ne, beq_iff_eq, Option.some.injEq] at horder
  refine ⟨horder.2, fun i hpos hlt => ?_⟩
  have hi := horder.1 (i - 1) (by omega)
  rwa [show i - 1 + 1 = i by omega] at hi

theorem minimalPeriod_eq (h : AcceptedField m prim) :
    Function.minimalPeriod (timesAlpha m prim) 1 = 2 ^ m - 1 := by
  have hbound := h.order_bounds
  obtain ⟨hone, hfirst⟩ := h.iterate_order
  have hper : Function.IsPeriodicPt (timesAlpha m prim) (2 ^ m - 1) 1 := hone
  refine le_antisymm (hper.minimalPeriod_le (by omega)) (Nat.le_of_not_lt fun hlt => ?_)
  exact hfirst _ (hper.minimalPeriod_pos (by omega)) hlt Function.iterate_minimalPeriod

/-- The values of one period are distinct. -/
theorem iterate_injective (h : AcceptedField m prim) {i j : Nat} (hi : i < 2 ^ m - 1) (hj : j < 2 ^ m - 1)
    (he : alphaIterate m prim i = alphaIterate m prim j) : i = j := by
  rw [← h.minimalPeriod_eq] at hi hj
  exact Function.iterate_injOn_Iio_minimalPeriod hi hj he

theorem iterate_lt (h : AcceptedField m prim) (i : Nat) : (alphaIterate m prim i).toNat < 2 ^ m := by
  induction i with
  | zero => exact Nat.one_lt_two_pow (by have := h.three_le; omega)
  | succ i ih =>
    rw [alphaIterate, Function.iterate_succ_apply', ← alphaIterate, toNat_timesAlpha h.le_twelve _ ih]
    exact doubleMod_lt h.degree ih

/-- From 0 the sequence never returns to 1. -/
theorem iterate_ne_zero (h : AcceptedField m prim) {i : Nat} (hi : i < 2 ^ m - 1) : alphaIterate m prim i ≠ 0 := by
  intro hzero
  have hlast := h.iterate_order.1
  rw [alphaIterate, show 2 ^ m - 1 = (2 ^ m - 1 - i) + i by omega, Function.iterate_add_apply, ← alphaIterate, hzero,
    Function.iterate_fixed (timesAlpha_zero m prim)] at hlast
  exact absurd hlast (by decide)

/-! ### `EXP` -/

/-- `EXP[i] = seq[i]` on the whole of `[0, ORD)` (R124). -/
theorem expTable_eq (h : AcceptedField m prim) :
    expTable m prim = (List.range (2 ^ m - 1)).map fun i => (alphaIterate m prim i).setWidth 12 := by
  have hbound := h.order_bounds
  rw [expTable, alphaSeq_eq (by have := h.three_le; omega)]
  simp only [List.getLastD_concat, List.dropLast_concat, h.iterate_order.1]
  rw [show 2 ^ m - 1 = 2 ^ m - 2 + 1 by omega, List.range_succ_eq_map]
  simp only [List.map_cons, List.map_map]
  rfl

theorem expTable_length (h : AcceptedField m prim) : (expTable m prim).length = 2 ^ m - 1 := by
  rw [h.expTable_eq, List.length_map, List.length_range]

theorem toNat_expTable (h : AcceptedField m prim) {i : Nat} (hi : i < 2 ^ m - 1) :
    ((expTable m prim).getD i 0).toNat = (alphaIterate m prim i).toNat := by
  have hlt := h.iterate_lt i
  have hpow := pow_le_of_le_twelve h.le_twelve
  rw [h.expTable_eq, List.getD_eq_getElem?_getD, List.getElem?_map, List.getElem?_range hi]
  simp only [Option.map_some, Option.getD_some, BitVec.toNat_setWidth]
  exact Nat.mod_eq_of_lt (by omega)

theorem expTable_injective (h : AcceptedField m prim) {i j : Nat} (hi : i < 2 ^ m - 1) (hj : j < 2 ^ m - 1)
    (he : (expTable m prim).getD i 0 = (expTable m prim).getD j 0) : i = j := by
  refine h.iterate_injective hi hj (BitVec.eq_of_toNat_eq ?_)
  rw [← h.toNat_expTable hi, ← h.toNat_expTable hj, he]

theorem expTable_ne_zero (h : AcceptedField m prim) {i : Nat} (hi : i < 2 ^ m - 1) :
    (expTable m prim).getD i 0 ≠ 0 := by
  intro hzero
  refine h.iterate_ne_zero hi (BitVec.eq_of_toNat_eq ?_)
  rw [← h.toNat_expTable hi, hzero]
  rfl

/-- Every cell is below 2^M; a cell beyond the list reads 0. -/
theorem expTable_lt (h : AcceptedField m prim) (i : Nat) : ((expTable m prim).getD i 0).toNat < 2 ^ m := by
  by_cases hi : i < 2 ^ m - 1
  · rw [h.toNat_expTable hi]
    exact h.iterate_lt i
  · rw [List.getD_eq_default _ _ (by rw [h.expTable_length]; omega)]
    exact Nat.two_pow_pos m

/-- `ORD` distinct nonzero values below 2^M are all of them. -/
theorem expTable_surjective (h : AcceptedField m prim) {a : Cell} (ha : a ≠ 0) (hlt : a.toNat < 2 ^ m) :
    ∃ i, i < 2 ^ m - 1 ∧ (expTable m prim).getD i 0 = a := by
  have hmaps : Set.MapsTo (fun i => ((expTable m prim).getD i 0).toNat) (Finset.range (2 ^ m - 1))
      (Finset.Ico 1 (2 ^ m)) := by
    intro i hi
    have hne := h.expTable_ne_zero (by simpa using hi)
    exact Finset.mem_coe.2 (Finset.mem_Ico.2
      ⟨Nat.pos_of_ne_zero fun hz => hne (BitVec.eq_of_toNat_eq hz), h.expTable_lt i⟩)
  have hinj : Set.InjOn (fun i => ((expTable m prim).getD i 0).toNat) (Finset.range (2 ^ m - 1)) := by
    intro i hi j hj he
    exact h.expTable_injective (by simpa using hi) (by simpa using hj) (BitVec.eq_of_toNat_eq he)
  have hmem : a.toNat ∈ (Finset.Ico 1 (2 ^ m) : Finset Nat) :=
    Finset.mem_Ico.2 ⟨Nat.pos_of_ne_zero fun hz => ha (BitVec.eq_of_toNat_eq hz), hlt⟩
  obtain ⟨i, hi, he⟩ := Finset.surjOn_of_injOn_of_card_le _ hmaps hinj (by simp) hmem
  exact ⟨i, by simpa using hi, BitVec.eq_of_toNat_eq he⟩

end AcceptedField

/-! ### `LOG` -/

/-- The second loop of R124 leaves the cells of values it does not meet. -/
theorem getElem?_fillLog_of_notMem {vs : List Cell} {a : Cell} (h : a ∉ vs) (i : Nat) (log : List Cell) :
    (fillLog vs i log)[a.toNat]? = log[a.toNat]? := by
  induction vs generalizing i log with
  | nil => rfl
  | cons v vs ih =>
    rw [List.mem_cons, not_or] at h
    have hne : v.toNat ≠ a.toNat := fun he => h.1 (BitVec.eq_of_toNat_eq he.symm)
    rw [fillLog, ih h.2, List.getElem?_set_ne hne]

/-- Over distinct values the second loop of R124 writes each value's place in its cell. -/
theorem getElem?_fillLog {vs : List Cell} (hnodup : vs.Nodup) {k : Nat} {a : Cell} (hk : vs[k]? = some a) (i : Nat)
    {log : List Cell} (hlen : a.toNat < log.length) :
    (fillLog vs i log)[a.toNat]? = some (BitVec.ofNat 12 (i + k)) := by
  induction vs generalizing i k log with
  | nil => simp at hk
  | cons v vs ih =>
    obtain ⟨hnotMem, hnodup⟩ := List.nodup_cons.1 hnodup
    rw [fillLog]
    cases k with
    | zero =>
      obtain rfl : v = a := by simpa using hk
      rw [getElem?_fillLog_of_notMem hnotMem, List.getElem?_set_self hlen, Nat.add_zero]
    | succ k =>
      rw [ih hnodup (by simpa using hk) (i + 1) (by simpa using hlen), show i + 1 + k = i + (k + 1) by omega]

/-- `LOG[EXP[i]] = i` (R28). -/
theorem AcceptedField.logTable_expTable {m : Nat} {prim : BitVec 13} (h : AcceptedField m prim) {i : Nat}
    (hi : i < 2 ^ m - 1) :
    ((logTable m (expTable m prim)).getD ((expTable m prim).getD i 0).toNat 0).toNat = i := by
  have hbound := h.order_bounds
  have hlen := h.expTable_length
  have hcell : (expTable m prim)[i]? = some ((expTable m prim).getD i 0) := by
    rw [List.getD_eq_getElem?_getD, List.getElem?_eq_getElem (by omega), Option.getD_some]
  have hnodup : (expTable m prim).Nodup := by
    refine List.nodup_iff_getElem?_ne_getElem?.2 fun j k hjk hk he => ?_
    have hd := h.expTable_injective (i := j) (j := k) (by omega) (by omega)
      (by rw [List.getD_eq_getElem?_getD, List.getD_eq_getElem?_getD, he])
    omega
  have hne : 0 ≠ ((expTable m prim).getD i 0).toNat := fun hz =>
    h.expTable_ne_zero hi (BitVec.eq_of_toNat_eq hz.symm)
  rw [logTable, List.getD_eq_getElem?_getD, List.getElem?_set_ne hne,
    getElem?_fillLog hnodup hcell 0 (by simpa using h.expTable_lt i), Option.getD_some, BitVec.toNat_ofNat]
  omega

/-! ### The tables of a state with a field -/

section Ready

variable {s : State} (h : s.FieldReady)
include h

theorem State.FieldReady.expCell_eq (i : Nat) : s.expCell i = (expTable s.m.toNat s.prim).getD i 0 := by
  obtain ⟨-, -, -, -, -, hexp, -⟩ := h
  rw [State.expCell, hexp]

theorem State.FieldReady.logCell_expCell {i : Nat} (hi : i < s.ord) : s.logCell (s.expCell i) = i := by
  have heq := h.expCell_eq i
  have hacc := h.accepted
  obtain ⟨-, -, -, -, -, hexp, hlog⟩ := h
  rw [State.logCell, heq, hlog, hexp]
  exact hacc.logTable_expTable hi

theorem State.FieldReady.exists_expCell {a : Cell} (ha : a ≠ 0) (helem : s.isElement a) :
    ∃ i, i < s.ord ∧ s.expCell i = a := by
  obtain ⟨i, hi, he⟩ := h.accepted.expTable_surjective ha helem
  exact ⟨i, hi, (h.expCell_eq i).trans he⟩

/-- `α^0 = 1` and `α^1 = x`, the first two steps of R124. -/
theorem State.FieldReady.expCell_zero_one : s.expCell 0 = 1 ∧ s.expCell 1 = 2 := by
  have hacc := h.accepted
  have hbound := hacc.order_bounds
  have hlow := hacc.three_le
  have hpow := eight_le_pow hlow
  refine ⟨BitVec.eq_of_toNat_eq ?_, BitVec.eq_of_toNat_eq ?_⟩
  · rw [h.expCell_eq, hacc.toNat_expTable (by omega)]
    rfl
  · have hbit : Nat.testBit 2 s.m.toNat = false := Nat.testBit_lt_two_pow (by omega)
    have hone : (1 : BitVec 13).toNat < 2 ^ s.m.toNat := by change 1 < _; omega
    rw [h.expCell_eq, hacc.toNat_expTable (by omega), alphaIterate, Function.iterate_one,
      toNat_timesAlpha hacc.le_twelve _ hone, doubleMod]
    simp [hbit]

end Ready

theorem State.Inv.fieldReady {s : State} (h : s.Inv) (hf : s.status.fv = true) : s.FieldReady := by
  obtain ⟨-, ⟨hfield, -⟩, -⟩ := h
  exact (hfield hf).1

/-- Settles O21: the cells of `EXP` are one period of R124's sequence, and `LOG` is filled from it. -/
theorem tablesInvertEachOther : Obligations.TablesInvertEachOther := by
  intro s hinv hf
  have h := hinv.fieldReady hf
  refine ⟨h.expCell_zero_one.1, h.expCell_zero_one.2, fun i j hi hj he => ?_, fun i hi => ⟨?_, ?_⟩,
    fun a helem ha => ?_, fun i hi => h.logCell_expCell hi⟩
  · rw [h.expCell_eq, h.expCell_eq] at he
    exact h.accepted.expTable_injective hi hj he
  · rw [h.expCell_eq]
    exact h.accepted.expTable_ne_zero hi
  · rw [h.expCell_eq]
    exact h.accepted.expTable_lt i
  · obtain ⟨i, hi, rfl⟩ := h.exists_expCell ha helem
    rw [h.logCell_expCell hi]
    exact ⟨hi, rfl⟩

end Sys2Proof.Machine

/-! ## The field functions on elements

Two facts about every function over the tables, side by side: on elements it gives elements, and it does not see the
cells that R29 calls unobservable. -/

namespace Sys2Proof.Machine

/-- The value is an element of the field: below 2^M. -/
def GF.Elem (F : GF) (a : Cell) : Prop := a.toNat < 2 ^ F.m

/-- Every coefficient is an element. -/
def GF.IsPoly (F : GF) (p : List Cell) : Prop := ∀ c ∈ p, F.Elem c

/-- `EXP` holds elements, and 1 is one. -/
structure GF.Closed (F : GF) : Prop where
  m_pos : 0 < F.m
  expAt : ∀ i, F.Elem (F.expAt i)

/-- The tables of `F'` are those of `F` on the cells that R29 calls observable. -/
structure GF.Agrees (F F' : GF) : Prop where
  m : F'.m = F.m
  expAt : ∀ k, k < F.ord → F'.expAt k = F.expAt k
  logAt : ∀ a, a ≠ 0 → F.Elem a → F'.logAt a = F.logAt a

/-! ### Elements -/

theorem GF.elem_zero (F : GF) : F.Elem 0 := Nat.two_pow_pos F.m

theorem GF.elem_gfAdd {F : GF} {a b : Cell} (ha : F.Elem a) (hb : F.Elem b) : F.Elem (gfAdd a b) := by
  rw [GF.Elem, gfAdd, BitVec.toNat_xor]
  exact Nat.xor_lt_two_pow ha hb

theorem GF.elem_xorSum {F : GF} {f : Nat → Cell} (hf : ∀ i, F.Elem (f i)) (n : Nat) : F.Elem (xorSum n f) := by
  induction n with
  | zero => exact F.elem_zero
  | succ n ih => exact GF.elem_gfAdd ih (hf n)

namespace GF.Closed

variable {F : GF} (hF : F.Closed)
include hF

theorem elem_one : F.Elem 1 := Nat.one_lt_two_pow hF.m_pos.ne'

theorem ord_pos : 0 < F.ord := Nat.sub_pos_of_lt hF.elem_one

theorem elem_mul (a b : Cell) : F.Elem (F.mul a b) := by
  rw [GF.mul]
  split
  · exact F.elem_zero
  · exact hF.expAt _

theorem elem_quot (a b : Cell) : F.Elem (F.quot a b) := by
  rw [GF.quot]
  split
  · exact F.elem_zero
  · exact hF.expAt _

end GF.Closed

/-! ### Lists of elements -/

/-- The coefficients of a list are elements exactly when all its cells read as elements. -/
theorem GF.isPoly_iff_read {F : GF} {p : List Cell} : F.IsPoly p ↔ ∀ i, F.Elem (Memory.read p i) := by
  constructor
  · intro h i
    by_cases hi : i < p.length
    · rw [Memory.read, List.getD_eq_getElem?_getD, List.getElem?_eq_getElem hi]
      exact h _ (List.getElem_mem hi)
    · rw [Memory.read_of_length_le (by omega)]
      exact F.elem_zero
  · intro h c hc
    obtain ⟨i, hi, rfl⟩ := List.getElem_of_mem hc
    simpa [Memory.read, List.getD_eq_getElem?_getD, hi] using h i

theorem GF.isPoly_nil (F : GF) : F.IsPoly [] := by simp [GF.IsPoly]

theorem GF.isPoly_cons {F : GF} {c : Cell} {p : List Cell} : F.IsPoly (c :: p) ↔ F.Elem c ∧ F.IsPoly p :=
  List.forall_mem_cons

theorem GF.isPoly_map {α : Type} {F : GF} {f : α → Cell} {as : List α} (h : ∀ a ∈ as, F.Elem (f a)) :
    F.IsPoly (as.map f) := List.forall_mem_map.2 h

namespace GF.IsPoly

variable {F : GF} {p q : List Cell} (hp : F.IsPoly p)
include hp

theorem read (i : Nat) : F.Elem (Memory.read p i) := GF.isPoly_iff_read.1 hp i

theorem trim : F.IsPoly (Memory.trim p) := GF.isPoly_iff_read.2 fun i => by
  rw [Memory.read_trim]
  exact hp.read i

theorem take (k : Nat) : F.IsPoly (p.take k) := fun c hc => hp c (List.mem_of_mem_take hc)

theorem store : F.IsPoly (Memory.store p) := (hp.take _).trim

theorem put (k : Nat) {v : Cell} (hv : F.Elem v) : F.IsPoly (Memory.put p k v) := GF.isPoly_iff_read.2 fun i => by
  rw [Memory.read_put]
  split
  · exact hv
  · exact hp.read i

theorem write (k : Nat) {v : Cell} (hv : F.Elem v) : F.IsPoly (Memory.write p k v) := (hp.put k hv).store

theorem writeFrom (base : Nat) {vs : List Cell} (hvs : F.IsPoly vs) : F.IsPoly (Memory.writeFrom p base vs) := by
  induction vs generalizing p base with
  | nil => exact hp
  | cons v vs ih =>
    obtain ⟨hv, hvs⟩ := GF.isPoly_cons.1 hvs
    exact ih (hp.write base hv) _ hvs

theorem polyAdd (hq : F.IsPoly q) : F.IsPoly (polyAdd p q) := GF.isPoly_iff_read.2 fun i => by
  rw [read_polyAdd]
  exact GF.elem_gfAdd (hp.read i) (hq.read i)

theorem polyShift (k : Nat) : F.IsPoly (polyShift k p) := GF.isPoly_iff_read.2 fun i => by
  rw [read_polyShift]
  split
  · exact hp.read _
  · exact F.elem_zero

theorem polyDeriv : F.IsPoly (polyDeriv p) := GF.isPoly_iff_read.2 fun i => by
  rw [read_polyDeriv, derivCoef]
  split
  · exact hp.read _
  · exact F.elem_zero

end GF.IsPoly

/-! ### The functions over the tables keep to the field -/

namespace GF.Closed

variable {F : GF} (hF : F.Closed)
include hF

theorem isPoly_one : F.IsPoly [1] := GF.isPoly_cons.2 ⟨hF.elem_one, F.isPoly_nil⟩

theorem isPoly_polyScale (c : Cell) (p : List Cell) : F.IsPoly (polyScale F c p) :=
  GF.isPoly_iff_read.2 fun i => by
    rw [read_polyScale]
    exact hF.elem_mul _ _

theorem isPoly_polyMul (p q : List Cell) : F.IsPoly (polyMul F p q) :=
  GF.isPoly_iff_read.2 fun i => by
    rw [read_polyMul]
    exact GF.elem_xorSum (fun j => hF.elem_mul _ _) _

theorem elem_polyEval {p : List Cell} (hp : F.IsPoly p) (x : Cell) : F.Elem (polyEval F p x) := by
  cases p with
  | nil => exact F.elem_zero
  | cons c p => exact GF.elem_gfAdd (hF.elem_mul _ _) (GF.isPoly_cons.1 hp).1

theorem isPoly_divLoop {b : List Cell} (db : Nat) (lb : Cell) (fuel : Nat) {q r : List Cell}
    (hq : F.IsPoly q) (hr : F.IsPoly r) :
    F.IsPoly (divLoop F b db lb fuel q r).1 ∧ F.IsPoly (divLoop F b db lb fuel q r).2 := by
  induction fuel generalizing q r with
  | zero => exact ⟨hq, hr⟩
  | succ fuel ih =>
    rw [divLoop]
    split
    · exact ⟨hq, hr⟩
    · exact ih (hq.put _ (hF.elem_quot _ _)) (hr.polyAdd ((hF.isPoly_polyScale _ b).polyShift _)).trim

theorem isPoly_polyDivmod {a : List Cell} (ha : F.IsPoly a) (b : List Cell) :
    F.IsPoly (polyDivmod F a b).1 ∧ F.IsPoly (polyDivmod F a b).2 :=
  hF.isPoly_divLoop _ _ _ F.isPoly_nil ha.trim

theorem isPoly_productOfRoots (js : List Nat) : F.IsPoly (productOfRoots F js) :=
  List.foldlRecOn js _ (motive := F.IsPoly) hF.isPoly_one fun g _ _ _ => hF.isPoly_polyMul g _

theorem elem_discrepancy {syn : Memory} (hsyn : F.IsPoly syn) (q : Nat) (v : BmVars) :
    F.Elem (discrepancy F syn q v) := by
  refine List.foldlRecOn (List.range' 1 v.l) _ (motive := F.Elem) (hsyn.read q) fun d hd i _ => ?_
  split
  · exact GF.elem_gfAdd hd (hF.elem_mul _ _)
  · exact hd

end GF.Closed

/-- What the loop of R204 keeps: its arrays and its divisor are over the field, and the divisor is not 0. -/
structure BmVars.OverField (F : GF) (v : BmVars) : Prop where
  lam : F.IsPoly v.lam
  bp : F.IsPoly v.bp
  bd : F.Elem v.bd
  bd_ne_zero : v.bd ≠ 0

namespace GF.Closed

variable {F : GF} (hF : F.Closed) {syn : Memory} (hsyn : F.IsPoly syn)
include hF

theorem overField_bmStart : bmStart.OverField F := ⟨hF.isPoly_one, hF.isPoly_one, hF.elem_one, by decide⟩

include hsyn

theorem overField_bmStep {v : BmVars} (hv : v.OverField F) (q : Nat) : (bmStep F syn v q).OverField F := by
  have hlam : ∀ c, F.IsPoly (polyAdd v.lam (polyShift v.pos (polyScale F c v.bp))) := fun c =>
    hv.lam.polyAdd ((hF.isPoly_polyScale c v.bp).polyShift _)
  rw [bmStep]
  dsimp only
  split
  · exact { hv with }
  · rename_i hd
    split
    · exact ⟨hlam _, hv.lam, hF.elem_discrepancy hsyn q v, hd⟩
    · exact { hv with lam := hlam _ }

theorem overField_berlekampMassey (t : Nat) : (berlekampMassey F syn t).OverField F :=
  List.foldlRecOn (List.range (2 * t)) _ (motive := BmVars.OverField F) hF.overField_bmStart
    fun _ hv q _ => hF.overField_bmStep hsyn hv q

omit hsyn in
theorem elem_omegaCoef (syn lam : Memory) (i : Nat) : F.Elem (omegaCoef F syn lam i) :=
  List.foldlRecOn (List.range (i + 1)) _ (motive := F.Elem) F.elem_zero
    fun _ hacc _ _ => GF.elem_gfAdd hacc (hF.elem_mul _ _)

end GF.Closed

end Sys2Proof.Machine

/-! ## The invariant is kept

With a field, every effect is a sequence of writes of elements to arrays and of register writes, and each of these keeps
the invariant. -/

namespace Sys2Proof.Machine

/-- The invariant, with a field. -/
structure State.Ready (s : State) : Prop where
  inv : s.Inv
  fv : s.status.fv = true

/-- A length or a place below `ORD` is written without loss and is an element. -/
theorem State.elem_ofNat {s : State} {k : Nat} (hk : k < s.ord) : s.gf.Elem (BitVec.ofNat 12 k) := by
  have hle : k % 2 ^ 12 ≤ k := Nat.mod_le _ _
  rw [GF.Elem, BitVec.toNat_ofNat]
  change k % 2 ^ 12 < 2 ^ s.m.toNat
  rw [State.ord] at hk
  omega

/-! ### What a ready state gives -/

namespace State.Ready

variable {s : State} (h : s.Ready)
include h

theorem fieldReady : s.FieldReady := h.inv.fieldReady h.fv

theorem isPoly (sel : ArrSel) : s.gf.IsPoly (s.arr sel) := by
  obtain ⟨-, ⟨hfield, -⟩, -⟩ := h.inv
  obtain ⟨-, hcells, -, -⟩ := hfield h.fv
  exact hcells sel

theorem length_le : s.n.toNat ≤ s.ord := by
  obtain ⟨-, ⟨hfield, -⟩, -⟩ := h.inv
  obtain ⟨-, -, hn, -⟩ := hfield h.fv
  exact hn

theorem closed : s.gf.Closed where
  m_pos := by
    have hm := h.fieldReady.accepted.three_le
    change 0 < s.m.toNat
    omega
  expAt i := by
    have hlt := h.fieldReady.accepted.expTable_lt i
    rwa [← h.fieldReady.expCell_eq i] at hlt

/-! ### Writes that keep it -/

theorem setArr (sel : ArrSel) {p : List Cell} (hp : s.gf.IsPoly p) : (s.setArr sel p).Ready := by
  obtain ⟨⟨hwf, ⟨hfield, -⟩, hfault⟩, hf⟩ := h
  obtain ⟨hready, hcells, hn, ht⟩ := hfield hf
  have hcells' : (s.setArr sel p).CellsInField := fun sel' => by
    rw [State.setArr_arr]
    split
    · exact hp.store
    · exact hcells sel'
  refine ⟨⟨fun sel' => ?_, ⟨fun _ => ⟨hready, hcells', hn, ht⟩, fun hno => ?_⟩, hfault⟩, hf⟩
  · rw [State.setArr_arr]
    split
    · exact Memory.wf_store p
    · exact hwf sel'
  · exact absurd (hf.symm.trans hno) (by decide)

theorem setStatus (sz ok tmr rlm fdz : Bool) : (s.setStatus ⟨s.status.fv, sz, ok, tmr, rlm, fdz⟩).Ready := { h with }

theorem setBm (l pos bd : BitVec 12) : (s.setBm l pos bd).Ready := { h with }

theorem setNroots (k : BitVec 12) : (s.setNroots k).Ready := { h with }

theorem setEcnt (k : BitVec 12) : (s.setEcnt k).Ready := { h with }

theorem setMode (mode : Mode) : (s.setMode mode).Ready := { h with }

theorem setN {n : BitVec 12} (hn : n.toNat ≤ s.ord) : (s.setN n).Ready := by
  obtain ⟨⟨hwf, ⟨hfield, -⟩, hfault⟩, hf⟩ := h
  obtain ⟨hready, hcells, -, ht⟩ := hfield hf
  exact ⟨⟨hwf, ⟨fun _ => ⟨hready, hcells, hn, ht⟩, fun hno => absurd (hf.symm.trans hno) (by decide)⟩, hfault⟩, hf⟩

theorem setT {t : BitVec 11} (ht : 2 * t.toNat ≤ s.ord - 1) : (s.setT t).Ready := by
  obtain ⟨⟨hwf, ⟨hfield, -⟩, hfault⟩, hf⟩ := h
  obtain ⟨hready, hcells, hn, -⟩ := hfield hf
  exact ⟨⟨hwf, ⟨fun _ => ⟨hready, hcells, hn, ht⟩, fun hno => absurd (hf.symm.trans hno) (by decide)⟩, hfault⟩, hf⟩

/-! ### The encoder and the phases of the decoder -/

theorem encodeWord : s.encodeWord.Ready := by
  refine h.setArr .cw ((h.isPoly .cw).writeFrom _ (GF.isPoly_map fun j _ => GF.IsPoly.read ?_ j))
  have hdata : s.gf.IsPoly s.dataSymbols := GF.isPoly_map fun i _ => (h.isPoly .cw).read _
  exact (h.closed.isPoly_polyDivmod (hdata.polyShift _) _).2

theorem syndPhase : s.syndPhase.Ready := by
  have hsyn : s.gf.IsPoly s.syndromes := GF.isPoly_map fun j _ => h.closed.elem_polyEval ((h.isPoly .cw).take _) _
  exact (h.setArr .syn hsyn).setStatus _ _ _ _ _

theorem bmaPhase : s.bmaPhase.Ready := by
  have hv := h.closed.overField_berlekampMassey (h.isPoly .syn) s.t.toNat
  exact ((h.setArr .lam hv.lam).setArr .bp hv.bp).setBm _ _ _

theorem chienPhase : s.chienPhase.Ready := by
  have hroots : s.gf.IsPoly (s.chienRoots.map (BitVec.ofNat 12)) := GF.isPoly_map fun i hi => by
    have hlt : i < s.n.toNat := List.mem_range.1 (List.mem_of_mem_filter hi)
    exact State.elem_ofNat (lt_of_lt_of_le hlt h.length_le)
  exact ((h.setArr .epos hroots).setNroots _).setStatus _ _ _ _ _

theorem omegaPhase : s.omegaPhase.Ready :=
  h.setArr .omg (GF.isPoly_map fun i _ => h.closed.elem_omegaCoef _ _ i)

theorem elem_forneyValue (p : Cell) : s.gf.Elem (s.forneyValue p) := by
  rw [State.forneyValue]
  split
  · exact GF.elem_zero _
  · exact h.closed.elem_quot _ _

theorem forneyPhase : s.forneyPhase.Ready :=
  (h.setArr .eval (GF.isPoly_map fun p _ => h.elem_forneyValue p)).setStatus _ _ _ _ _

theorem elem_magnitude (j : Nat) : s.gf.Elem (s.magnitude j) := by
  rw [State.magnitude]
  split
  · exact h.closed.elem_one
  · exact (h.isPoly .eval).read j

theorem isPoly_correctCell {cw : Memory} (hcw : s.gf.IsPoly cw) (j : Nat) : s.gf.IsPoly (s.correctCell cw j) := by
  rw [State.correctCell]
  split
  · exact hcw.write _ (GF.elem_gfAdd (hcw.read _) (h.elem_magnitude j))
  · exact hcw

theorem applyCorrection : s.applyCorrection.Ready := by
  have hcw : s.gf.IsPoly ((List.range s.nroots.toNat).foldl s.correctCell s.arrays.cw) :=
    List.foldlRecOn _ _ (motive := s.gf.IsPoly) (h.isPoly .cw) fun _ hcw j _ => h.isPoly_correctCell hcw j
  exact ((h.setArr .cw hcw).setEcnt _).setStatus _ _ _ _ _

theorem correctPhase : s.correctPhase.Ready := by
  rw [State.correctPhase]
  split
  · exact (h.setEcnt _).setStatus _ _ _ _ _
  · split
    · exact (h.setEcnt _).setStatus _ _ _ _ _
    · exact h.applyCorrection

theorem clearDecode : s.clearDecode.Ready :=
  (((h.setNroots _).setArr .epos (GF.isPoly_nil _)).setArr .eval (GF.isPoly_nil _)).setEcnt _ |>.setStatus _ _ _ _ _

theorem magnitudePhase : s.magnitudePhase.Ready := by
  rw [State.magnitudePhase]
  split
  · exact h
  · exact h.omegaPhase.forneyPhase

theorem finishDecode : s.finishDecode.Ready := by
  rw [State.finishDecode]
  split
  · exact h
  · dsimp only
    split
    · exact h.magnitudePhase
    · exact h.magnitudePhase.applyCorrection

theorem decodePhase : s.decodePhase.Ready := by
  have hsynd := h.clearDecode.syndPhase
  rw [State.decodePhase]
  dsimp only
  split
  · exact hsynd.setStatus _ _ _ _ _
  · exact hsynd.bmaPhase.chienPhase.finishDecode

end State.Ready

/-! ### Every command -/

/-- A command that needs the field has it when its checks pass. -/
theorem fv_of_pass {i : Instr} {s : State} (hneeds : needsField i = true)
    (hpass : firstFailing (commandChecks i s) = none) : s.status.fv = true := by
  by_contra hf
  rw [firstFailing_of_needsField hneeds (by simpa using hf)] at hpass
  cases hpass

/-- With a field, the effect of a command that needs it keeps the invariant. The checks of `PWR`, `CSETN` and `CSETT` are
what keeps their operands in range. -/
theorem State.Ready.commandEffect {i : Instr} {s : State} (h : s.Ready) (hneeds : needsField i = true)
    (hpass : firstFailing (commandChecks i s) = none) : (commandEffect i s).Ready := by
  cases i with
  | nop | reset | rdcsr | fsetm | fsetp | finit => cases hneeds
  | fadd | fmul | fdiv | finv | fpow | fisprim | fexp | flog | prd | pdeg | pisz | peval => exact h
  | pwr sel i c =>
    have hc : s.gf.Elem c := by
      refine (s.outOfField_eq_false_iff c).1 ?_
      simpa [commandChecks, State.needField, h.fv, State.needElement] using hpass
    exact h.setArr sel ((h.isPoly sel).put _ hc)
  | pclr pd => exact h.setArr pd (GF.isPoly_nil _)
  | pmov pd pa => exact h.setArr pd (h.isPoly pa)
  | padd pd pa pb => exact h.setArr pd ((h.isPoly pa).polyAdd (h.isPoly pb))
  | pmul pd pa pb => exact h.setArr pd (h.closed.isPoly_polyMul _ _)
  | pdivmod pa pb =>
    obtain ⟨hq, hr⟩ := h.closed.isPoly_polyDivmod (h.isPoly pa) (s.arr pb)
    exact (h.setArr .qt hq).setArr .rm hr
  | csetn n =>
    refine h.setN ?_
    have hrange : n.toNat ≠ 0 ∧ n.toNat ≤ 2 ^ s.m.toNat - 1 := by
      simpa [commandChecks, State.needField, h.fv] using hpass
    exact hrange.2
  | csett t =>
    refine h.setT ?_
    have hrange : t.toNat ≠ 0 ∧ 2 * t.toNat ≤ 2 ^ s.m.toNat - 2 := by
      simpa [commandChecks, State.needField, h.fv, State.badCapacity] using hpass
    have hmod : t.toNat % 2 ^ 11 ≤ t.toNat := Nat.mod_le _ _
    rw [BitVec.toNat_setWidth, State.ord]
    omega
  | csetmode mode => exact h.setMode mode
  | geng rho => exact h.setArr .g (h.closed.isPoly_productOfRoots _)
  | genb t => exact h.setArr .g (h.closed.isPoly_productOfRoots _)
  | enc => exact h.encodeWord
  | synd => exact h.syndPhase
  | bma => exact h.bmaPhase
  | chien => exact h.chienPhase
  | omega => exact h.omegaPhase
  | forney => exact h.forneyPhase
  | correct => exact h.correctPhase
  | decode => exact h.decodePhase

/-- Without a field the arrays are zero and `N` and `T` are 0, so the tables may be built from any accepted `M` and
`PRIM`. -/
theorem State.Inv.buildField {s : State} (h : s.Inv) (hf : s.status.fv = false) (hacc : AcceptedField s.m.toNat s.prim) :
    s.buildField.Inv := by
  obtain ⟨hwf, ⟨-, hnone⟩, hfault⟩ := h
  obtain ⟨harr, hn, ht⟩ := hnone hf
  refine ⟨hwf, ⟨fun _ => ⟨?_, fun sel c hc => ?_, ?_, ?_⟩, fun hno => by cases hno⟩, hfault⟩
  · exact ⟨rfl, hacc.three_le, hacc.le_twelve, beq_iff_eq.2 hacc.degree, hacc.fullOrder, rfl, rfl⟩
  · change c ∈ s.arr sel at hc
    simp [harr sel] at hc
  · change s.n.toNat ≤ _
    simp [hn]
  · change 2 * s.t.toNat ≤ _
    simp [ht]

/-- Without a field `M` and `PRIM` are free. -/
theorem State.Inv.setField {s : State} (h : s.Inv) (hf : s.status.fv = false) (m : BitVec 4) (prim : BitVec 13) :
    (s.setField m prim).Inv := by
  obtain ⟨hwf, ⟨-, hnone⟩, hfault⟩ := h
  exact ⟨hwf, ⟨fun hyes => absurd (hf.symm.trans hyes) (by decide), hnone⟩, hfault⟩

theorem State.inv_resetCore (s : State) : s.resetCore.Inv := resetMeetsInvariant

/-- Every effect keeps the invariant. -/
theorem State.Inv.commandEffect {i : Instr} {s : State} (h : s.Inv)
    (hpass : firstFailing (commandChecks i s) = none) : (commandEffect i s).Inv := by
  by_cases hneeds : needsField i = true
  · exact (State.Ready.commandEffect ⟨h, fv_of_pass hneeds hpass⟩ hneeds hpass).inv
  · cases i with
    | nop | rdcsr => exact h
    | reset => exact s.inv_resetCore
    | fsetm m =>
      have hf := (firstFailing_eq_none_iff _).1 hpass s.needUnlocked (by simp [commandChecks])
      exact h.setField hf _ _
    | fsetp p =>
      have hf := (firstFailing_eq_none_iff _).1 hpass s.needUnlocked (by simp [commandChecks])
      exact h.setField hf s.m p
    | finit =>
      have hall : s.status.fv = false ∧ (3 ≤ s.m.toNat ∧ s.m.toNat ≤ 12) ∧ degreeIs s.m.toNat s.prim = true ∧
          alphaHasFullOrder s.m.toNat s.prim = true := by
        rw [firstFailing_eq_none_iff] at hpass
        simpa [commandChecks, State.needUnlocked] using hpass
      obtain ⟨hf, ⟨hlow, hhigh⟩, hdeg, horder⟩ := hall
      exact h.buildField hf ⟨hlow, hhigh, by simpa [degreeIs] using hdeg, horder⟩
    | _ => exact absurd rfl hneeds

/-- A fault of a kind that can be raised keeps the invariant. -/
theorem State.Inv.faulted {s : State} (h : s.Inv) {k : FaultKind} (hk : k ≠ .lengthMismatch) :
    (s.faulted k.code).Inv := by
  obtain ⟨hwf, hfield, -, -, hsticky⟩ := h
  have hcode : k.code.toNat ≤ 9 ∧ k.code ≠ 3 ∧ ((1 <<< k.code.toNat : Nat) : BitVec 16) &&& 0xFC09 = 0 := by
    revert hk
    cases k <;> decide
  refine ⟨hwf, hfield, hcode.1, hcode.2.1, ?_⟩
  rw [State.faulted_esticky, BitVec.and_or_distrib_right, hsticky]
  exact (BitVec.zero_or ..).trans hcode.2.2

/-- Every command keeps the invariant. -/
theorem State.Inv.exec {i : Instr} {s t : State} (h : s.Inv) (he : exec i s = .next t) : t.Inv := by
  obtain ⟨k, hfail, rfl⟩ | ⟨hpass, rfl⟩ := exec_cases he
  · exact h.faulted (kind_ne_lengthMismatch hfail)
  · exact h.commandEffect hpass

/-- Every word, legal or not, keeps the invariant. -/
theorem State.Inv.runWord {w : Word} {s t : State} (h : s.Inv) (he : runWord w s = .next t) : t.Inv := by
  rw [Machine.runWord] at he
  split at he
  · exact h.exec he
  · rw [raise_eq] at he
    obtain rfl := Host.Outcome.next.inj he
    exact h.faulted (by decide)

/-- Settles O60: an idle step changes nothing, a word runs a command or faults, and `rst` reaches the reset state. -/
theorem stepKeepsInvariant : Obligations.StepKeepsInvariant := by
  intro s t h he
  rw [step] at he
  split at he
  · obtain rfl := Host.Outcome.next.inj he
    exact h
  · rename_i w es hp
    have hpending : (s.setPending es).Inv := h
    exact hpending.runWord he
  · obtain rfl := Host.Outcome.next.inj he
    exact State.inv_resetCore _

end Sys2Proof.Machine

/-! ## The unobservable cells of the tables

On elements every function over the tables gives the same answer over tables that agree on the observable cells; so do
the phases in a state of the invariant, and with them every command. -/

namespace Sys2Proof.Machine

/-- Two folds agree when their steps agree on what the first one keeps. -/
theorem foldl_congr_of_invariant {α β : Type} {P : β → Prop} {f g : β → α → β} (hkeep : ∀ b a, P b → P (f b a))
    (hstep : ∀ b a, P b → g b a = f b a) {b : β} (hb : P b) (as : List α) : as.foldl g b = as.foldl f b := by
  induction as generalizing b with
  | nil => rfl
  | cons a as ih => rw [List.foldl_cons, List.foldl_cons, hstep b a hb, ih (hkeep b a hb)]

namespace GF.Agrees

variable {F F' : GF} (h : F.Agrees F') (hF : F.Closed)
include h

theorem ord : F'.ord = F.ord := by rw [GF.ord, h.m, ← GF.ord]

include hF

theorem expAt_mod (k : Nat) : F'.expAt (k % F'.ord) = F.expAt (k % F.ord) := by
  rw [h.ord]
  exact h.expAt _ (Nat.mod_lt _ hF.ord_pos)

/-! ### Scalars -/

theorem alpha (i : Nat) : F'.alpha i = F.alpha i := h.expAt_mod hF i

theorem alphaNeg (i : Nat) : F'.alphaNeg i = F.alphaNeg i := by
  rw [GF.alphaNeg, h.expAt_mod hF, h.ord, ← GF.alphaNeg]

theorem mul {a b : Cell} (ha : F.Elem a) (hb : F.Elem b) : F'.mul a b = F.mul a b := by
  rw [GF.mul, GF.mul]
  split
  · rfl
  · rename_i hne
    rw [not_or] at hne
    rw [h.expAt_mod hF, h.logAt a hne.1 ha, h.logAt b hne.2 hb]

theorem quot {a b : Cell} (ha : F.Elem a) (hb : F.Elem b) (hne : b ≠ 0) : F'.quot a b = F.quot a b := by
  rw [GF.quot, GF.quot]
  split
  · rfl
  · rename_i hane
    rw [h.expAt_mod hF, h.ord, h.logAt a hane ha, h.logAt b hne hb]

theorem inv {a : Cell} (ha : F.Elem a) (hne : a ≠ 0) : F'.inv a = F.inv a := by
  rw [GF.inv, h.expAt_mod hF, h.ord, h.logAt a hne ha, ← GF.inv]

theorem pow {a : Cell} (ha : F.Elem a) (e : Nat) : F'.pow a e = F.pow a e := by
  rw [GF.pow, GF.pow]
  split
  · rfl
  · rename_i hne
    rw [h.expAt_mod hF, h.logAt a hne ha]

theorem isPrimitive {a : Cell} (ha : F.Elem a) : F'.isPrimitive a = F.isPrimitive a := by
  simp only [GF.isPrimitive, h.ord, h.pow hF ha]

/-! ### Polynomials -/

theorem polyScale {c : Cell} {p : List Cell} (hc : F.Elem c) (hp : F.IsPoly p) :
    polyScale F' c p = polyScale F c p := by
  rw [Machine.polyScale, Machine.polyScale, List.map_congr_left fun d hd => h.mul hF hc (hp d hd)]

theorem polyMul {p q : List Cell} (hp : F.IsPoly p) (hq : F.IsPoly q) : polyMul F' p q = polyMul F p q := by
  induction p with
  | nil => rfl
  | cons a p ih =>
    obtain ⟨ha, hp⟩ := GF.isPoly_cons.1 hp
    rw [Machine.polyMul, Machine.polyMul, h.polyScale hF ha hq, ih hp]

theorem polyEval {p : List Cell} (hp : F.IsPoly p) {x : Cell} (hx : F.Elem x) :
    polyEval F' p x = polyEval F p x := by
  induction p with
  | nil => rfl
  | cons c p ih =>
    obtain ⟨-, hp⟩ := GF.isPoly_cons.1 hp
    change gfAdd (F'.mul (Machine.polyEval F' p x) x) c = gfAdd (F.mul (Machine.polyEval F p x) x) c
    rw [ih hp, h.mul hF (hF.elem_polyEval hp x) hx]

theorem divLoop {b : List Cell} (hb : F.IsPoly b) (db : Nat) {lb : Cell} (hlb : F.Elem lb) (hne : lb ≠ 0) (fuel : Nat)
    (q : List Cell) {r : List Cell} (hr : F.IsPoly r) :
    divLoop F' b db lb fuel q r = divLoop F b db lb fuel q r := by
  induction fuel generalizing q r with
  | zero => rfl
  | succ fuel ih =>
    rw [Machine.divLoop, Machine.divLoop]
    split
    · rfl
    · dsimp only
      rw [h.quot hF (hr.read _) hlb hne, h.polyScale hF (hF.elem_quot _ _) hb]
      exact ih _ (hr.polyAdd ((hF.isPoly_polyScale _ b).polyShift _)).trim

/-- The divisor's leading coefficient is not 0, so no division meets `LOG[0]` (R244). -/
theorem polyDivmod {a b : List Cell} (ha : F.IsPoly a) (hb : F.IsPoly b) (hne : polyIsZero b = false) :
    polyDivmod F' a b = polyDivmod F a b := by
  have hlead : Memory.read (Memory.trim b) (polyDeg b) ≠ 0 := by
    rw [Memory.read_trim]
    obtain ⟨hlead, -⟩ | ⟨-, hzero⟩ := polyDeg_isDegree b
    · exact hlead
    · rw [(polyIsZero_eq_true_iff b).2 hzero] at hne
      cases hne
  exact h.divLoop hF hb.trim _ (hb.trim.read _) hlead _ _ ha.trim

theorem productOfRoots (js : List Nat) : productOfRoots F' js = productOfRoots F js := by
  refine foldl_congr_of_invariant (P := F.IsPoly) (fun g _ _ => hF.isPoly_polyMul g _) (fun g j hg => ?_)
    hF.isPoly_one js
  rw [h.alpha hF]
  exact h.polyMul hF hg (GF.isPoly_cons.2 ⟨hF.expAt _, hF.isPoly_one⟩)

theorem genBinary (t : Nat) : genBinary F' t = genBinary F t := by
  have hclosure : doublingClosure F' t = doublingClosure F t := by
    simp only [doublingClosure, doublings, h.m, h.ord]
  rw [Machine.genBinary, hclosure]
  exact h.productOfRoots hF _

/-! ### The decoder's sums and loop -/

theorem discrepancy {syn : Memory} (hsyn : F.IsPoly syn) (q : Nat) {v : BmVars} (hv : v.OverField F) :
    discrepancy F' syn q v = discrepancy F syn q v :=
  foldl_congr_of_invariant (P := fun _ => True) (fun _ _ _ => trivial)
    (fun d i _ => by rw [h.mul hF (hv.lam.read _) (hsyn.read _)]) trivial _

theorem bmStep {syn : Memory} (hsyn : F.IsPoly syn) {v : BmVars} (hv : v.OverField F) (q : Nat) :
    bmStep F' syn v q = bmStep F syn v q := by
  have hd := hF.elem_discrepancy hsyn q v
  rw [Machine.bmStep, Machine.bmStep, h.discrepancy hF hsyn q hv, h.quot hF hd hv.bd hv.bd_ne_zero,
    h.polyScale hF (hF.elem_quot _ _) hv.bp]

theorem berlekampMassey {syn : Memory} (hsyn : F.IsPoly syn) (t : Nat) :
    berlekampMassey F' syn t = berlekampMassey F syn t :=
  foldl_congr_of_invariant (P := BmVars.OverField F) (fun _ q hv => hF.overField_bmStep hsyn hv q)
    (fun _ q hv => h.bmStep hF hsyn hv q) hF.overField_bmStart _

theorem omegaCoef {syn lam : Memory} (hsyn : F.IsPoly syn) (hlam : F.IsPoly lam) (i : Nat) :
    omegaCoef F' syn lam i = omegaCoef F syn lam i :=
  foldl_congr_of_invariant (P := fun _ => True) (fun _ _ _ => trivial)
    (fun acc j _ => by rw [h.mul hF (hsyn.read _) (hlam.read _)]) trivial _

end GF.Agrees

/-! ### The phases -/

/-- Other contents in the unobservable cells of the tables of `s`. -/
def State.SameField (s : State) (e l : List Cell) : Prop := s.gf.Agrees (s.setTables e l).gf

/-- Whatever keeps the setup keeps the field. -/
theorem State.SameField.of_keeps {s s' : State} {e l : List Cell} (h : s.SameField e l) (hk : KeepsSetup s s') :
    s'.SameField e l := by
  rw [State.SameField, State.gf, State.gf, hk.exp, hk.log, State.setTables_m, hk.m]
  exact h

theorem State.setTables_ite (c : Prop) [Decidable c] (s s' : State) (e l : List Cell) :
    (if c then s else s').setTables e l = if c then s.setTables e l else s'.setTables e l :=
  apply_ite (fun s : State => s.setTables e l) c s s'

section Phases

variable {s : State} (h : s.Ready) {e l : List Cell} (ha : s.SameField e l)
include h ha

theorem State.setTables_syndPhase : (s.setTables e l).syndPhase = s.syndPhase.setTables e l := by
  have hsyn : (s.setTables e l).syndromes = s.syndromes := List.map_congr_left fun j _ => by
    rw [ha.alpha h.closed]
    exact ha.polyEval h.closed ((h.isPoly .cw).take _) (h.closed.expAt _)
  simp only [State.syndPhase, hsyn]
  rfl

theorem State.setTables_bmaPhase : (s.setTables e l).bmaPhase = s.bmaPhase.setTables e l := by
  have hv : berlekampMassey (s.setTables e l).gf s.arrays.syn s.t.toNat = berlekampMassey s.gf s.arrays.syn s.t.toNat :=
    ha.berlekampMassey h.closed (h.isPoly .syn) _
  simp only [State.bmaPhase, State.setTables_arrays, State.setTables_t, hv]
  rfl

theorem State.setTables_chienPhase : (s.setTables e l).chienPhase = s.chienPhase.setTables e l := by
  have hroots : (s.setTables e l).chienRoots = s.chienRoots := List.filter_congr fun i _ => by
    rw [ha.alphaNeg h.closed]
    exact congrArg (· == 0) (ha.polyEval h.closed (h.isPoly .lam) (h.closed.expAt _))
  simp only [State.chienPhase, hroots]
  rfl

theorem State.setTables_omegaPhase : (s.setTables e l).omegaPhase = s.omegaPhase.setTables e l := by
  have homg : omegaCoef (s.setTables e l).gf s.arrays.syn s.arrays.lam = omegaCoef s.gf s.arrays.syn s.arrays.lam :=
    funext fun i => ha.omegaCoef h.closed (h.isPoly .syn) (h.isPoly .lam) i
  simp only [State.omegaPhase, State.setTables_arrays, State.setTables_t, homg]
  rfl

theorem State.setTables_forneyDen : (s.setTables e l).forneyDen = s.forneyDen := funext fun p => by
  rw [State.forneyDen, ha.alphaNeg h.closed]
  exact ha.polyEval h.closed (h.isPoly .lam).polyDeriv (h.closed.expAt _)

/-- A value is a quotient by a denominator that is not 0. -/
theorem State.setTables_forneyValue : (s.setTables e l).forneyValue = s.forneyValue := funext fun p => by
  have hx : s.gf.Elem (s.gf.alphaNeg p.toNat) := h.closed.expAt _
  have homg : s.gf.IsPoly s.arrays.omg := h.isPoly .omg
  have hden : s.gf.Elem (s.forneyDen p) := h.closed.elem_polyEval (h.isPoly .lam).polyDeriv _
  rw [State.forneyValue, State.forneyValue, State.setTables_forneyDen h ha]
  split
  · rfl
  · rename_i hne
    rw [State.setTables_arrays, ha.alphaNeg h.closed, ha.polyEval h.closed homg hx,
      ha.quot h.closed (h.closed.elem_polyEval homg _) hden hne]

theorem State.setTables_forneyPhase : (s.setTables e l).forneyPhase = s.forneyPhase.setTables e l := by
  simp only [State.forneyPhase, State.setTables_forneyDen h ha, State.setTables_forneyValue h ha]
  rfl

omit h ha in
/-- Correction reads no table. -/
theorem State.setTables_applyCorrection (s : State) (e l : List Cell) :
    (s.setTables e l).applyCorrection = s.applyCorrection.setTables e l := rfl

omit h ha in
theorem State.setTables_correctPhase (s : State) (e l : List Cell) :
    (s.setTables e l).correctPhase = s.correctPhase.setTables e l := by
  simp only [State.correctPhase, State.setTables_ite, State.setTables_applyCorrection]
  rfl

theorem State.setTables_magnitudePhase : (s.setTables e l).magnitudePhase = s.magnitudePhase.setTables e l := by
  rw [State.magnitudePhase, State.magnitudePhase, State.setTables_mode]
  split
  · rfl
  · rw [State.setTables_omegaPhase h ha]
    exact State.setTables_forneyPhase h.omegaPhase (ha.of_keeps s.omegaPhase_keepsSetup)

theorem State.setTables_finishDecode : (s.setTables e l).finishDecode = s.finishDecode.setTables e l := by
  simp only [State.finishDecode, State.setTables_magnitudePhase h ha, State.setTables_ite,
    State.setTables_applyCorrection]
  rfl

theorem State.setTables_decodePhase : (s.setTables e l).decodePhase = s.decodePhase.setTables e l := by
  have hclear : (s.setTables e l).clearDecode = s.clearDecode.setTables e l := rfl
  have haclear := ha.of_keeps s.clearDecode_keepsSetup
  have hasynd := haclear.of_keeps s.clearDecode.syndPhase_keepsSetup
  have habma := hasynd.of_keeps (State.bmaPhase_keepsSetup _)
  have hsynd := h.clearDecode.syndPhase
  rw [State.decodePhase, State.decodePhase, hclear, State.setTables_syndPhase h.clearDecode haclear]
  dsimp only
  rw [State.setTables_bmaPhase hsynd hasynd, State.setTables_chienPhase hsynd.bmaPhase habma,
    State.setTables_finishDecode hsynd.bmaPhase.chienPhase (habma.of_keeps (State.chienPhase_keepsSetup _)),
    State.setTables_status]
  split <;> rfl

theorem State.setTables_encodeWord (hg : polyIsZero s.arrays.g = false) :
    (s.setTables e l).encodeWord = s.encodeWord.setTables e l := by
  have hdata : s.gf.IsPoly s.dataSymbols := GF.isPoly_map fun i _ => (h.isPoly .cw).read _
  have hrem : polyDivmod (s.setTables e l).gf (polyShift s.parityLength s.dataSymbols) s.arrays.g =
      polyDivmod s.gf (polyShift s.parityLength s.dataSymbols) s.arrays.g :=
    ha.polyDivmod h.closed (hdata.polyShift _) (h.isPoly .g) hg
  have hparity : (s.setTables e l).paritySymbols = s.paritySymbols := by
    change (List.range s.parityLength).map _ = (List.range s.parityLength).map _
    exact congrArg (fun qr : List Cell × List Cell => (List.range s.parityLength).map (Memory.read qr.2)) hrem
  simp only [State.encodeWord, hparity]
  rfl

end Phases

/-! ### Every command -/

/-- No check reads a table. -/
theorem commandChecks_setTables (i : Instr) (s : State) (e l : List Cell) :
    commandChecks i (s.setTables e l) = commandChecks i s := by
  cases i <;> rfl

section Commands

variable {i : Instr} {s : State} (h : s.Ready) {e l : List Cell} (ha : s.SameField e l)
  (hneeds : needsField i = true) (hpass : firstFailing (commandChecks i s) = none)
include h ha hneeds hpass

omit h ha hneeds in
theorem elem_of_check {a : Cell} (hmem : s.needElement a ∈ commandChecks i s) : s.gf.Elem a :=
  (s.outOfField_eq_false_iff a).1 ((firstFailing_eq_none_iff _).1 hpass _ hmem)

omit h ha hneeds in
theorem ne_zero_of_check {a : Cell} {k : FaultKind} (hmem : (a == 0, k) ∈ commandChecks i s) : a ≠ 0 := by
  simpa using (firstFailing_eq_none_iff _).1 hpass _ hmem

/-- The effect of a command that needs the field is the same but for the tables it does not touch. -/
theorem commandEffect_setTables : commandEffect i (s.setTables e l) = (commandEffect i s).setTables e l := by
  cases i with
  | nop | reset | rdcsr | fsetm | fsetp | finit => cases hneeds
  | synd => exact State.setTables_syndPhase h ha
  | bma => exact State.setTables_bmaPhase h ha
  | chien => exact State.setTables_chienPhase h ha
  | omega => exact State.setTables_omegaPhase h ha
  | forney => exact State.setTables_forneyPhase h ha
  | correct => exact State.setTables_correctPhase s e l
  | decode => exact State.setTables_decodePhase h ha
  | enc =>
    refine State.setTables_encodeWord h ha ?_
    exact (firstFailing_eq_none_iff _).1 hpass (polyIsZero s.arrays.g, .invalidParameters) (by simp [commandChecks])
  | pmul pd pa pb =>
    exact congrArg (fun p => (s.setArr pd p).setTables e l) (ha.polyMul h.closed (h.isPoly pa) (h.isPoly pb))
  | pdivmod pa pb =>
    have hne := (firstFailing_eq_none_iff _).1 hpass (polyIsZero (s.arr pb), .divideByZero) (by simp [commandChecks])
    exact congrArg (fun qr : List Cell × List Cell => ((s.setArr .qt qr.1).setArr .rm qr.2).setTables e l)
      (ha.polyDivmod h.closed (h.isPoly pa) (h.isPoly pb) hne)
  | geng rho => exact congrArg (fun p => (s.setArr .g p).setTables e l) (ha.productOfRoots h.closed _)
  | genb t => exact congrArg (fun p => (s.setArr .g p).setTables e l) (ha.genBinary h.closed _)
  | _ => rfl

/-- The result of a command that needs the field is the same. -/
theorem commandValue_setTables : commandValue i (s.setTables e l) = commandValue i s := by
  have heffect := commandEffect_setTables h ha hneeds hpass
  cases i with
  | nop | reset | rdcsr | fsetm | fsetp | finit => cases hneeds
  | synd => exact (congrArg (fun s' : State => flagValue s'.status.sz) heffect :)
  | bma => exact (congrArg (fun s' : State => cellValue s'.l) heffect :)
  | chien => exact (congrArg (fun s' : State => cellValue s'.nroots) heffect :)
  | forney => exact (congrArg (fun s' : State => flagValue s'.status.fdz) heffect :)
  | correct => exact (congrArg (fun s' : State => flagValue s'.status.ok) heffect :)
  | decode => exact (congrArg (fun s' : State => flagValue s'.status.ok) heffect :)
  | fmul a b =>
    have hea := elem_of_check hpass (a := a) (by simp [commandChecks])
    have heb := elem_of_check hpass (a := b) (by simp [commandChecks])
    exact congrArg cellValue (ha.mul h.closed hea heb)
  | fdiv a b =>
    have hea := elem_of_check hpass (a := a) (by simp [commandChecks])
    have heb := elem_of_check hpass (a := b) (by simp [commandChecks])
    have hne := ne_zero_of_check hpass (a := b) (k := .divideByZero) (by simp [commandChecks])
    exact congrArg cellValue (ha.quot h.closed hea heb hne)
  | finv a =>
    have hea := elem_of_check hpass (a := a) (by simp [commandChecks])
    have hne := ne_zero_of_check hpass (a := a) (k := .divideByZero) (by simp [commandChecks])
    exact congrArg cellValue (ha.inv h.closed hea hne)
  | fpow a n =>
    have hea := elem_of_check hpass (a := a) (by simp [commandChecks])
    exact congrArg cellValue (ha.pow h.closed hea _)
  | fisprim a =>
    have hea := elem_of_check hpass (a := a) (by simp [commandChecks])
    exact congrArg flagValue (ha.isPrimitive h.closed hea)
  | fexp n => exact congrArg cellValue (ha.alpha h.closed _)
  | flog a =>
    have hea := elem_of_check hpass (a := a) (by simp [commandChecks])
    have hne := ne_zero_of_check hpass (a := a) (k := .logOfZero) (by simp [commandChecks])
    exact congrArg countValue (ha.logAt a hne hea)
  | peval pa x =>
    have hx := elem_of_check hpass (a := x) (by simp [commandChecks])
    exact congrArg cellValue (ha.polyEval h.closed (h.isPoly pa) hx)
  | genb t => exact congrArg (fun g => countValue (polyDeg g)) (ha.genBinary h.closed _)
  | _ => rfl

end Commands

/-- The command's result, and its effect but for the tables, are the same over other tables. -/
def IgnoresTables (i : Instr) (s : State) (e l : List Cell) : Prop :=
  commandValue i (s.setTables e l) = commandValue i s ∧
  (commandEffect i (s.setTables e l)).setTables (commandEffect i s).exp (commandEffect i s).log = commandEffect i s

/-- The commands that need no field read no table, and `FINIT` builds new ones. -/
theorem ignoresTables_of_needsField_false {i : Instr} (hneeds : needsField i = false) (s : State) (e l : List Cell) :
    IgnoresTables i s e l := by
  cases i with
  | rdcsr c => exact ⟨by cases c <;> rfl, rfl⟩
  | nop | reset | fsetm | fsetp | finit => exact ⟨rfl, rfl⟩
  | _ => cases hneeds

theorem ignoresTables_of_ready {i : Instr} {s : State} (h : s.Ready) {e l : List Cell} (ha : s.SameField e l)
    (hneeds : needsField i = true) (hpass : firstFailing (commandChecks i s) = none) : IgnoresTables i s e l := by
  refine ⟨commandValue_setTables h ha hneeds hpass, ?_⟩
  rw [commandEffect_setTables h ha hneeds hpass]
  rfl

/-- A command that ignores the tables when its checks pass has the same outcome over other tables. -/
theorem exec_setTables {i : Instr} {s t : State} {e l : List Cell} (h : exec i s = .next t)
    (hignores : firstFailing (commandChecks i s) = none → IgnoresTables i s e l) :
    ∃ u, exec i (s.setTables e l) = .next u ∧ u.setTables t.exp t.log = t := by
  obtain ⟨k, hfail, rfl⟩ | ⟨hpass, rfl⟩ := exec_cases h
  · rw [← commandChecks_setTables i s e l] at hfail
    exact ⟨_, exec_of_fail hfail, rfl⟩
  · obtain ⟨hvalue, heffect⟩ := hignores hpass
    rw [← commandChecks_setTables i s e l] at hpass
    refine ⟨_, exec_of_pass hpass, ?_⟩
    rw [hvalue]
    exact congrArg (fun s' : State => s'.answered (commandValue i s)) heffect

/-- Settles O58: the commands that need no field read no table, and the others, which answer only with a field, see the
tables through functions on elements. -/
theorem unobservableTableCells : Obligations.UnobservableTableCells := by
  refine ⟨fun i s t e l hf h => exec_setTables h fun hpass => ?_,
    fun i s t e l hinv hf hexp hlog h => exec_setTables h fun hpass => ?_⟩
  · refine ignoresTables_of_needsField_false (Bool.eq_false_iff.2 fun hneeds => ?_) s e l
    exact absurd (hf.symm.trans (fv_of_pass hneeds hpass)) (by decide)
  · cases hneeds : needsField i with
    | false => exact ignoresTables_of_needsField_false hneeds s e l
    | true => exact ignoresTables_of_ready ⟨hinv, hf⟩ ⟨rfl, hexp, hlog⟩ hneeds hpass

end Sys2Proof.Machine

/-! ## The writers of the array registers, and the cells of `CW` at `N` and above

An effect writes array registers of its command's list only, and of `CW` no cell at `N` or above. That none reads such a
cell is a simulation: states that differ in those cells only are led by every codec command to such states. -/

namespace Sys2Proof.Machine

/-! ### What is written -/

/-- What no phase of the decoder changes: `N`, the array registers `DECODE` is not listed for, and the cells of `CW` at
`N` and above. -/
structure KeepsOutsideDecode (s s' : State) : Prop where
  n : s'.n = s.n
  arr : ∀ sel, sel ∉ writesArrays .decode → s'.arr sel = s.arr sel
  above : ∀ k, s.n.toNat ≤ k → k < Config.plen → s'.coef .cw k = s.coef .cw k

namespace KeepsOutsideDecode

theorem refl (s : State) : KeepsOutsideDecode s s := ⟨rfl, fun _ _ => rfl, fun _ _ _ => rfl⟩

variable {s s' : State} (h : KeepsOutsideDecode s s')
include h

theorem setArr {sel : ArrSel} (hsel : sel ∈ writesArrays .decode) (hcw : sel ≠ .cw) (p : List Cell) :
    KeepsOutsideDecode s (s'.setArr sel p) where
  n := h.n
  arr sel' hsel' := by
    rw [State.setArr_arr_other _ _ (ne_of_mem_of_not_mem hsel hsel').symm, h.arr sel' hsel']
  above k hn hk := by rw [State.coef, State.setArr_arr_other _ _ hcw.symm, ← State.coef, h.above k hn hk]

theorem setStatus (st : Status) : KeepsOutsideDecode s (s'.setStatus st) := { h with }

theorem setBm (l pos bd : BitVec 12) : KeepsOutsideDecode s (s'.setBm l pos bd) := { h with }

theorem setNroots (k : BitVec 12) : KeepsOutsideDecode s (s'.setNroots k) := { h with }

theorem setEcnt (k : BitVec 12) : KeepsOutsideDecode s (s'.setEcnt k) := { h with }

theorem clearDecode : KeepsOutsideDecode s s'.clearDecode :=
  ((((h.setNroots _).setArr (sel := .epos) (by decide) (by decide) _).setArr (sel := .eval) (by decide)
    (by decide) _).setEcnt _).setStatus _

theorem syndPhase : KeepsOutsideDecode s s'.syndPhase :=
  (h.setArr (sel := .syn) (by decide) (by decide) _).setStatus _

theorem bmaPhase : KeepsOutsideDecode s s'.bmaPhase :=
  ((h.setArr (sel := .lam) (by decide) (by decide) _).setArr (sel := .bp) (by decide) (by decide) _).setBm _ _ _

theorem chienPhase : KeepsOutsideDecode s s'.chienPhase :=
  ((h.setArr (sel := .epos) (by decide) (by decide) _).setNroots _).setStatus _

theorem omegaPhase : KeepsOutsideDecode s s'.omegaPhase := h.setArr (sel := .omg) (by decide) (by decide) _

theorem forneyPhase : KeepsOutsideDecode s s'.forneyPhase :=
  (h.setArr (sel := .eval) (by decide) (by decide) _).setStatus _

theorem magnitudePhase : KeepsOutsideDecode s s'.magnitudePhase := by
  rw [State.magnitudePhase]
  split
  · exact h
  · exact h.omegaPhase.forneyPhase

theorem applyCorrection : KeepsOutsideDecode s s'.applyCorrection where
  n := h.n
  arr sel hsel := by
    have hcw : sel ≠ .cw := by rintro rfl; exact hsel (by decide)
    exact (State.setArr_arr_other _ _ hcw).trans (h.arr sel hsel)
  above k hn hk := by
    have hcells := s'.read_foldl_correctCell_above s'.arrays.cw (List.range s'.nroots.toNat) (by rwa [h.n]) hk
    exact ((Memory.read_store _ _).trans (if_pos hk)).trans (hcells.trans (h.above k hn hk))

theorem correctPhase : KeepsOutsideDecode s s'.correctPhase := by
  rw [State.correctPhase]
  split
  · exact (h.setEcnt _).setStatus _
  · split
    · exact (h.setEcnt _).setStatus _
    · exact h.applyCorrection

theorem finishDecode : KeepsOutsideDecode s s'.finishDecode := by
  rw [State.finishDecode]
  split
  · exact h
  · dsimp only
    split
    · exact h.magnitudePhase
    · exact h.magnitudePhase.applyCorrection

theorem decodePhase : KeepsOutsideDecode s s'.decodePhase := by
  have hsynd := h.clearDecode.syndPhase
  rw [State.decodePhase]
  dsimp only
  split
  · exact hsynd.setStatus _
  · exact hsynd.bmaPhase.chienPhase.finishDecode

end KeepsOutsideDecode

theorem State.correctPhase_arr (s : State) {sel : ArrSel} (h : sel ≠ .cw) : s.correctPhase.arr sel = s.arr sel := by
  rw [State.correctPhase]
  split
  · rfl
  · split
    · rfl
    · exact State.setArr_arr_other _ _ h

/-- An effect changes the array registers listed for its command only (20_memory.md R61). -/
theorem commandEffect_arr {i : Instr} {sel : ArrSel} (h : sel ∉ writesArrays i) (s : State) :
    (commandEffect i s).arr sel = s.arr sel := by
  cases i
  case reset => exact absurd (by cases sel <;> decide) h
  case decode => exact (KeepsOutsideDecode.refl s).decodePhase.arr sel h
  case correct => exact s.correctPhase_arr (List.ne_of_not_mem_cons h)
  case pdivmod | bma =>
    simp only [writesArrays, List.mem_cons, List.not_mem_nil, or_false, not_or] at h
    exact (State.setArr_arr_other _ _ h.2).trans (State.setArr_arr_other _ _ h.1)
  case pwr | pclr | pmov | padd | pmul | geng | genb | enc | synd | chien | omega | forney =>
    exact State.setArr_arr_other _ _ (List.ne_of_not_mem_cons h)
  all_goals rfl

/-- The parity symbols fit below `N` when the checks of `ENC` pass (43_generator_encoder.md R191). -/
theorem parityLength_le_of_pass {s : State} (hpass : firstFailing (commandChecks .enc s) = none) :
    s.parityLength ≤ s.n.toNat := by
  have h := (firstFailing_eq_none_iff _).1 hpass
    (s.parityLength < 1 || s.n.toNat - 1 < s.parityLength, .invalidParameters) (by simp [commandChecks])
  simp only [Bool.or_eq_false_iff, decide_eq_false_iff_not] at h
  omega

/-- Parity symbols that fit below `N` are written below `N` in both layouts (10_state.md R33). -/
theorem State.parityBase_add_le {s : State} (h : s.parityLength ≤ s.n.toNat) :
    s.parityBase + s.parityLength ≤ s.n.toNat := by
  rw [State.parityBase, State.dataLength]
  split <;> omega

theorem State.encodeWord_above {s : State} (h : s.parityLength ≤ s.n.toNat) {k : Nat} (hn : s.n.toNat ≤ k)
    (hk : k < Config.plen) : s.encodeWord.coef .cw k = s.coef .cw k := by
  have hlength : s.paritySymbols.length = s.parityLength := by simp [State.paritySymbols]
  have hfits := State.parityBase_add_le h
  rw [State.encodeWord, State.coef, State.setArr_arr_same, Memory.read_store, if_pos hk, Memory.read_writeFrom _ _ _ hk,
    if_neg (by omega)]
  rfl

/-- No codec command writes a cell of `CW` at `N` or above (10_state.md R33). -/
theorem commandEffect_above {i : Instr} {s : State} (hcodec : isCodec i = true)
    (hpass : firstFailing (commandChecks i s) = none) {k : Nat} (hn : s.n.toNat ≤ k) (hk : k < Config.plen) :
    (commandEffect i s).coef .cw k = s.coef .cw k := by
  by_cases hcw : ArrSel.cw ∈ writesArrays i
  · cases i
    case enc => exact State.encodeWord_above (parityLength_le_of_pass hpass) hn hk
    case correct => exact (KeepsOutsideDecode.refl s).correctPhase.above k hn hk
    case decode => exact (KeepsOutsideDecode.refl s).decodePhase.above k hn hk
    case csetn | csett | csetmode | geng | genb | synd | bma | chien | omega | forney =>
      exact absurd hcw (by simp [writesArrays])
    all_goals cases hcodec
  · exact congrArg (Memory.read · k) (commandEffect_arr hcw s)

/-! ### What is read -/

/-- Horner's loop sees the coefficients only. -/
theorem polyEval_congr (F : GF) {p q : List Cell} (h : ∀ i, Memory.read p i = Memory.read q i) (x : Cell) :
    polyEval F p x = polyEval F q x := by
  rw [polyEval_eq_horner F p x (le_max_left p.length q.length), polyEval_eq_horner F q x (le_max_right _ _), funext h]

theorem notBinary_congr {p q : List Cell} (h : ∀ i, Memory.read p i = Memory.read q i) :
    notBinary p = notBinary q := by
  rw [Bool.eq_iff_iff, ← not_iff_not, Bool.not_eq_true, Bool.not_eq_true, notBinary_eq_false_iff,
    notBinary_eq_false_iff, funext h]

/-- A listed error leaves in each cell what depends on that cell alone. -/
theorem State.read_foldl_correctCell_congr (s : State) {cw cw' : Memory} {k : Nat} (hk : k < Config.plen)
    (h : Memory.read cw' k = Memory.read cw k) (js : List Nat) :
    Memory.read (js.foldl s.correctCell cw') k = Memory.read (js.foldl s.correctCell cw) k := by
  induction js generalizing cw cw' with
  | nil => exact h
  | cons j js ih => exact ih (by rw [State.read_correctCell _ _ _ hk, State.read_correctCell _ _ _ hk, h])

/-- Other contents in `CW`. -/
def State.withCw (s : State) (cw : Memory) : State := { s with arrays := { s.arrays with cw := cw } }

/-- `u` is `s` but for the cells of `CW` at `n` and above. -/
def State.SameBelow (n : BitVec 12) (s u : State) : Prop :=
  ∃ cw, u = s.withCw cw ∧ ∀ k, k < n.toNat → Memory.read cw k = s.coef .cw k

namespace State.SameBelow

variable {n : BitVec 12} {s u : State}

theorem ite (p : Prop) [Decidable p] {s' u' : State} (h : s.SameBelow n u) (h' : s'.SameBelow n u') :
    (if p then s else s').SameBelow n (if p then u else u') := by
  split
  · exact h
  · exact h'

section

variable (h : s.SameBelow n u)
include h

theorem status : u.status = s.status := by
  obtain ⟨cw, rfl, -⟩ := h
  rfl

theorem mode : u.mode = s.mode := by
  obtain ⟨cw, rfl, -⟩ := h
  rfl

/-- An operation that neither reads nor writes `CW`. -/
theorem of_ignoresCw (f : State → State) (hf : ∀ cw, f (s.withCw cw) = (f s).withCw cw)
    (hcw : (f s).arr .cw = s.arr .cw) : (f s).SameBelow n (f u) := by
  obtain ⟨cw, rfl, hcells⟩ := h
  exact ⟨cw, hf cw, fun k hk => (hcells k hk).trans (congrArg (Memory.read · k) hcw).symm⟩

theorem setStatus (st : Status) : (s.setStatus st).SameBelow n (u.setStatus st) :=
  h.of_ignoresCw (·.setStatus st) (fun _ => rfl) rfl

theorem setEcnt (k : BitVec 12) : (s.setEcnt k).SameBelow n (u.setEcnt k) :=
  h.of_ignoresCw (·.setEcnt k) (fun _ => rfl) rfl

theorem clearDecode : s.clearDecode.SameBelow n u.clearDecode :=
  h.of_ignoresCw State.clearDecode (fun _ => rfl) rfl

theorem bmaPhase : s.bmaPhase.SameBelow n u.bmaPhase :=
  h.of_ignoresCw State.bmaPhase (fun _ => rfl) rfl

theorem chienPhase : s.chienPhase.SameBelow n u.chienPhase :=
  h.of_ignoresCw State.chienPhase (fun _ => rfl) rfl

theorem omegaPhase : s.omegaPhase.SameBelow n u.omegaPhase :=
  h.of_ignoresCw State.omegaPhase (fun _ => rfl) rfl

theorem forneyPhase : s.forneyPhase.SameBelow n u.forneyPhase :=
  h.of_ignoresCw State.forneyPhase (fun _ => rfl) rfl

theorem magnitudePhase : s.magnitudePhase.SameBelow n u.magnitudePhase := by
  rw [State.magnitudePhase, State.magnitudePhase, h.mode]
  cases s.mode with
  | bch => exact h
  | rs => exact h.omegaPhase.forneyPhase

theorem applyCorrection : s.applyCorrection.SameBelow n u.applyCorrection := by
  obtain ⟨cw, rfl, hcw⟩ := h
  refine ⟨Memory.store ((List.range s.nroots.toNat).foldl s.correctCell cw), rfl, fun k hk => ?_⟩
  have hcells := s.read_foldl_correctCell_congr (hk.trans n.isLt) (hcw k hk) (List.range s.nroots.toNat)
  exact (Memory.read_store _ _).trans (by rw [hcells]; exact (Memory.read_store _ _).symm)

theorem correctPhase : s.correctPhase.SameBelow n u.correctPhase := by
  rw [State.correctPhase, State.correctPhase, h.status, h.mode]
  exact ite _ ((h.setEcnt 0).setStatus _) (ite _ ((h.setEcnt 0).setStatus _) h.applyCorrection)

theorem finishDecode : s.finishDecode.SameBelow n u.finishDecode := by
  have hmag := h.magnitudePhase
  simp only [State.finishDecode, h.status, hmag.status, hmag.mode]
  exact ite _ h (ite _ hmag hmag.applyCorrection)

end

/-! The cells below the state's own `N` are all that is read. -/

section

variable (h : s.SameBelow s.n u)
include h

theorem read_received (i : Nat) : Memory.read u.received i = Memory.read s.received i := by
  obtain ⟨cw, rfl, hcw⟩ := h
  rw [State.received, State.received, Memory.read_take, Memory.read_take]
  change (if i < s.n.toNat then Memory.read cw i else 0) = _
  split
  · exact hcw i ‹_›
  · rfl

theorem syndromes : u.syndromes = s.syndromes := by
  have hreceived := h.read_received
  obtain ⟨cw, rfl, -⟩ := h
  exact List.map_congr_left fun j _ => polyEval_congr _ hreceived _

theorem needBits : u.needBits = s.needBits := by
  rw [State.needBits, State.needBits, h.mode, notBinary_congr h.read_received]

theorem dataSymbols : u.dataSymbols = s.dataSymbols := by
  obtain ⟨cw, rfl, hcw⟩ := h
  refine List.map_congr_left fun i hi => hcw _ ?_
  have hlt : i < s.dataLength := List.mem_range.1 hi
  change s.dataBase + i < s.n.toNat
  rw [State.dataLength] at hlt
  rw [State.dataBase]
  split <;> omega

theorem syndPhase : s.syndPhase.SameBelow s.n u.syndPhase := by
  rw [State.syndPhase, State.syndPhase, h.syndromes, h.status]
  exact h.of_ignoresCw (fun s' => (s'.setArr .syn s.syndromes).setStatus _) (fun _ => rfl) rfl

theorem decodePhase : s.decodePhase.SameBelow s.n u.decodePhase := by
  have hsynd : s.clearDecode.syndPhase.SameBelow s.n u.clearDecode.syndPhase :=
    syndPhase (s := s.clearDecode) h.clearDecode
  rw [State.decodePhase, State.decodePhase]
  dsimp only
  rw [hsynd.status]
  exact ite _ (hsynd.setStatus _) hsynd.bmaPhase.chienPhase.finishDecode

theorem encodeWord : s.encodeWord.SameBelow s.n u.encodeWord := by
  have hparity : u.paritySymbols = s.paritySymbols := by
    have hdata := h.dataSymbols
    obtain ⟨cw, rfl, -⟩ := h
    rw [State.paritySymbols, State.paritySymbols, hdata]
    rfl
  rw [State.encodeWord, State.encodeWord, hparity]
  obtain ⟨cw, rfl, hcw⟩ := h
  refine ⟨Memory.store (Memory.writeFrom cw s.parityBase s.paritySymbols), rfl, fun k hk => ?_⟩
  have hk' : k < Config.plen := hk.trans s.n.isLt
  rw [State.coef, State.setArr_arr_same, Memory.read_store, Memory.read_store, Memory.read_writeFrom _ _ _ hk',
    Memory.read_writeFrom _ _ _ hk', hcw k hk]
  rfl

/-! ### Every codec command -/

variable {i : Instr} (hcodec : isCodec i = true)
include hcodec

theorem commandChecks : commandChecks i u = commandChecks i s := by
  cases i
  case enc =>
    have hdata := h.dataSymbols
    obtain ⟨cw, rfl, -⟩ := h
    simp only [Machine.commandChecks, hdata]
    rfl
  case synd | decode =>
    have hbits := h.needBits
    obtain ⟨cw, rfl, -⟩ := h
    exact congrArg (s.decChecks ++ [·]) hbits
  case csetn | csett | csetmode | geng | genb | bma | chien | omega | forney | correct =>
    obtain ⟨cw, rfl, -⟩ := h
    rfl
  all_goals cases hcodec

theorem commandEffect : (commandEffect i s).SameBelow s.n (commandEffect i u) := by
  cases i
  case enc => exact h.encodeWord
  case synd => exact h.syndPhase
  case correct => exact h.correctPhase
  case decode => exact h.decodePhase
  case csetn | csett | csetmode | geng | genb | bma | chien | omega | forney =>
    exact h.of_ignoresCw (Machine.commandEffect _) (fun _ => rfl) rfl
  all_goals cases hcodec

theorem commandValue : commandValue i u = commandValue i s := by
  have hstatus := (h.commandEffect hcodec).status
  cases i
  case synd => exact (congrArg (fun st : Status => flagValue st.sz) hstatus :)
  case correct | decode => exact (congrArg (fun st : Status => flagValue st.ok) hstatus :)
  case csetn | csett | csetmode | geng | genb | enc | bma | chien | omega | forney =>
    obtain ⟨cw, rfl, -⟩ := h
    rfl
  all_goals cases hcodec

/-- A codec command has the same outcome over other contents of `CW` at `N` and above, but for those cells. -/
theorem exec {t : State} (hexec : exec i s = .next t) : ∃ v, exec i u = .next v ∧ t.SameBelow s.n v := by
  have hchecks := h.commandChecks hcodec
  obtain ⟨k, hfail, rfl⟩ | ⟨hpass, rfl⟩ := exec_cases hexec
  · refine ⟨_, exec_of_fail (hchecks ▸ hfail), h.of_ignoresCw (·.faulted k.code) (fun _ => rfl) rfl⟩
  · refine ⟨_, exec_of_pass (hchecks ▸ hpass), ?_⟩
    rw [h.commandValue hcodec]
    exact (h.commandEffect hcodec).of_ignoresCw (·.answered _) (fun _ => rfl) rfl

end

end State.SameBelow

/-- Settles O56: a fault writes no array register and an effect those of its command; of `CW` a codec command writes
cells below `N` only, and what it does and answers is a function of those. -/
theorem arrayWriters : Obligations.ArrayWriters := by
  refine ⟨fun i s t sel h hsel => ?_, fun i s t k hcodec h hn hk => ?_, fun i s t other hcodec h hother => ?_⟩
  · obtain ⟨k, -, rfl⟩ | ⟨-, rfl⟩ := exec_cases h
    · rfl
    · exact commandEffect_arr hsel s
  · obtain ⟨k, -, rfl⟩ | ⟨hpass, rfl⟩ := exec_cases h
    · rfl
    · exact commandEffect_above hcodec hpass hn hk
  · have hsame : s.SameBelow s.n (s.withCw other) := ⟨other, rfl, hother⟩
    obtain ⟨u, hu, cw, rfl, hcw⟩ := hsame.exec hcodec h
    exact ⟨_, hu, rfl, hcw⟩

end Sys2Proof.Machine

/-! ## Words and commands

A word and its fields determine each other (`Fields.ofWord_toWord`, `Fields.toWord_ofWord`), so what is said of words is
proved of fields: that `encodeFields` and `decodeFields` are each other's inverses, then which fields a row of the
opcode table accepts, then which fields no command has. -/

namespace Sys2Proof

open Machine

/-! ### Bit fields as numbers -/

theorem toNat_append_eq {n m : Nat} (x : BitVec n) (y : BitVec m) : (x ++ y).toNat = x.toNat * 2 ^ m + y.toNat := by
  rw [BitVec.toNat_append, Nat.shiftLeft_eq, Nat.mul_comm, Nat.two_pow_add_eq_or_of_lt y.isLt]

theorem eq_ofNat_of_toNat_eq {n k : Nat} {x : BitVec n} (h : x.toNat = k) : x = BitVec.ofNat n k := by
  rw [← h, BitVec.ofNat_toNat, BitVec.setWidth_eq]

theorem beq_zero_eq_false_iff {n : Nat} (x : BitVec n) : (x == 0) = false ↔ x.toNat ≠ 0 := by
  simp [BitVec.toNat_eq]

/-- A value fits in `n` bits when the bits above them are 0. -/
theorem extractLsb'_eq_zero_iff {n m : Nat} (x : BitVec (n + m)) : x.extractLsb' n m = 0 ↔ x.toNat < 2 ^ n := by
  have hdiv : x.toNat / 2 ^ n < 2 ^ m := Nat.div_lt_of_lt_mul (by rw [← Nat.pow_add]; exact x.isLt)
  simp [BitVec.toNat_eq, BitVec.extractLsb'_toNat, Nat.shiftRight_eq_div_pow, Nat.mod_eq_of_lt hdiv,
    Nat.div_eq_zero_iff]

theorem beq_extractLsb'_eq_false_iff {n m : Nat} (x : BitVec (n + m)) :
    (x.extractLsb' n m == 0) = false ↔ 2 ^ n ≤ x.toNat := by
  rw [beq_eq_false_iff_ne, ne_eq, extractLsb'_eq_zero_iff, Nat.not_lt]

/-- A value that fits in `n` bits is its low `n` bits. -/
theorem setWidth_extractLsb'_of_lt {w n : Nat} {x : BitVec w} (h : x.toNat < 2 ^ n) :
    (x.extractLsb' 0 n).setWidth w = x := by
  apply BitVec.eq_of_toNat_eq
  simp [BitVec.extractLsb'_toNat, Nat.mod_eq_of_lt h, Nat.mod_eq_of_lt x.isLt]

theorem extractLsb'_extractLsb'_of_add_le {n start len start' len' : Nat} (x : BitVec n) (h : start' + len' ≤ len) :
    (x.extractLsb' start len).extractLsb' start' len' = x.extractLsb' (start + start') len' := by
  ext k hk
  simp [show start' + k < len by omega, Nat.add_assoc]

/-! ### Fields of a word -/

theorem Fields.ofWord_injective {w w' : Word} (h : Fields.ofWord w = Fields.ofWord w') : w = w' := by
  rw [← Fields.toWord_ofWord w, h, Fields.toWord_ofWord]

theorem Fields.toNat_imm (f : Fields) : f.imm.toNat = f.a.toNat * 4096 + f.b.toNat := toNat_append_eq _ _

theorem Fields.imm_eq_zero_iff (f : Fields) : f.imm = 0 ↔ f.a = 0 ∧ f.b = 0 := by
  simp only [BitVec.toNat_eq, Fields.toNat_imm]
  simp

theorem immFields_mk_imm (grp fn : BitVec 4) (a b : BitVec 12) :
    immFields grp fn (Fields.imm ⟨grp, fn, a, b⟩) = ⟨grp, fn, a, b⟩ := by
  rw [immFields, Fields.imm, BitVec.extractLsb'_append_eq_left, BitVec.extractLsb'_append_eq_right]

/-- The three selector nibbles are all of `a` (R85). -/
theorem exists_selectorField (a : BitVec 12) : ∃ pd pa pb, selectorField pd pa pb = a := by
  refine ⟨a.extractLsb' 8 4, a.extractLsb' 4 4, a.extractLsb' 0 4, ?_⟩
  revert a
  decide +kernel

section Nibbles

variable (grp fn pd pa pb : BitVec 4) (b : BitVec 12)

@[simp] theorem Fields.pd_selectorField : Fields.pd ⟨grp, fn, selectorField pd pa pb, b⟩ = pd := selectorField_pd _ _ _

@[simp] theorem Fields.pa_selectorField : Fields.pa ⟨grp, fn, selectorField pd pa pb, b⟩ = pa := selectorField_pa _ _ _

@[simp] theorem Fields.pb_selectorField : Fields.pb ⟨grp, fn, selectorField pd pa pb, b⟩ = pb := selectorField_pb _ _ _

end Nibbles

section FieldNumbers

variable (f : Fields)

theorem Fields.toNat_pd : f.pd.toNat = f.a.toNat / 256 := by
  have ha := f.a.isLt
  simp only [Fields.pd, BitVec.extractLsb'_toNat, Nat.shiftRight_eq_div_pow]
  omega

theorem Fields.toNat_pa : f.pa.toNat = f.a.toNat / 16 % 16 := by
  simp [Fields.pa, BitVec.extractLsb'_toNat, Nat.shiftRight_eq_div_pow]

theorem Fields.toNat_pb : f.pb.toNat = f.a.toNat % 16 := by
  simp [Fields.pb, BitVec.extractLsb'_toNat]

/-- A word as one number (R83). -/
theorem Fields.toWord_eq_wordOf : f.toWord = wordOf f.grp.toNat f.fn.toNat f.a.toNat f.b.toNat := by
  have hword : f.toWord.toNat = ((f.grp.toNat * 2 ^ 4 + f.fn.toNat) * 2 ^ 12 + f.a.toNat) * 2 ^ 12 + f.b.toNat := by
    rw [Fields.toWord, toNat_append_eq, toNat_append_eq, toNat_append_eq]
  have hlt := f.toWord.isLt
  apply BitVec.eq_of_toNat_eq
  rw [wordOf, BitVec.toNat_ofNat]
  omega

end FieldNumbers

theorem exists_fields {grp fn a b : Nat} (hgrp : grp < 16) (hfn : fn < 16) (ha : a < 4096) (hb : b < 4096) :
    ∃ f : Fields, f.grp.toNat = grp ∧ f.fn.toNat = fn ∧ f.a.toNat = a ∧ f.b.toNat = b :=
  ⟨⟨BitVec.ofNatLT grp hgrp, BitVec.ofNatLT fn hfn, BitVec.ofNatLT a ha, BitVec.ofNatLT b hb⟩, rfl, rfl, rfl, rfl⟩

/-! ### Selector and register numbers -/

/-- A selector number names an array register when it is at most 9 (R96). -/
theorem ArrSel.exists_number_iff (k : BitVec 4) : (∃ sel : ArrSel, sel.number = k) ↔ k.toNat ≤ 9 := by
  constructor
  · rintro ⟨sel, rfl⟩
    cases sel <;> decide
  · intro h
    have hsome : ∀ k : BitVec 4, k.toNat ≤ 9 → (ArrSel.ofNumber k).isSome := by decide
    obtain ⟨sel, hsel⟩ := Option.isSome_iff_exists.1 (hsome k h)
    exact ⟨sel, ArrSel.number_of_ofNumber hsel⟩

theorem Csr.number_of_ofNumber {k : BitVec 12} {c : Csr} (h : Csr.ofNumber k = some c) : c.number = k := by
  apply BitVec.eq_of_toNat_eq
  rw [Csr.ofNumber] at h
  split at h <;> cases h <;> exact Eq.symm ‹k.toNat = _›

/-- A register number names a register when it is at most 12 (R42). -/
theorem Csr.exists_number_iff (k : BitVec 12) : (∃ c : Csr, c.number = k) ↔ k.toNat ≤ 12 := by
  constructor
  · rintro ⟨c, rfl⟩
    cases c <;> decide
  · intro h
    have hsome : (Csr.ofNumber k).isSome := by
      rw [Csr.ofNumber]
      interval_cases k.toNat <;> rfl
    obtain ⟨c, hc⟩ := Option.isSome_iff_exists.1 hsome
    exact ⟨c, Csr.number_of_ofNumber hc⟩

@[simp] theorem ArrSel.number_le (sel : ArrSel) : sel.number.toNat ≤ 9 := (ArrSel.exists_number_iff _).1 ⟨sel, rfl⟩

@[simp] theorem Csr.number_le (c : Csr) : c.number.toNat ≤ 12 := (Csr.exists_number_iff _).1 ⟨c, rfl⟩

/-! ### Decoding an encoding -/

theorem decodeFields_encodeFields (i : Instr) : decodeFields (encodeFields i) = .ok i := by
  cases i with
  | nop => exact Laws.FieldsRoundTrip.nop
  | reset => exact Laws.FieldsRoundTrip.reset
  | rdcsr c => exact Laws.FieldsRoundTrip.rdcsr c
  | fsetm m => exact Laws.FieldsRoundTrip.fsetm m
  | fsetp p => exact Laws.FieldsRoundTrip.fsetp p
  | finit => exact Laws.FieldsRoundTrip.finit
  | fadd a b => exact Laws.FieldsRoundTrip.fadd a b
  | fmul a b => exact Laws.FieldsRoundTrip.fmul a b
  | fdiv a b => exact Laws.FieldsRoundTrip.fdiv a b
  | finv a => exact Laws.FieldsRoundTrip.finv a
  | fpow a e => exact Laws.FieldsRoundTrip.fpow a e
  | fisprim a => exact Laws.FieldsRoundTrip.fisprim a
  | fexp i => exact Laws.FieldsRoundTrip.fexp i
  | flog a => exact Laws.FieldsRoundTrip.flog a
  | pwr sel i c => exact Laws.FieldsRoundTrip.pwr sel i c
  | prd sel i => exact Laws.FieldsRoundTrip.prd sel i
  | pclr pd => exact Laws.FieldsRoundTrip.pclr pd
  | pmov pd pa => exact Laws.FieldsRoundTrip.pmov pd pa
  | pdeg pa => exact Laws.FieldsRoundTrip.pdeg pa
  | pisz pa => exact Laws.FieldsRoundTrip.pisz pa
  | padd pd pa pb => exact Laws.FieldsRoundTrip.padd pd pa pb
  | pmul pd pa pb => exact Laws.FieldsRoundTrip.pmul pd pa pb
  | pdivmod pa pb => exact Laws.FieldsRoundTrip.pdivmod pa pb
  | peval pa x => exact Laws.FieldsRoundTrip.peval pa x
  | csetn n => exact Laws.FieldsRoundTrip.csetn n
  | csett t => exact Laws.FieldsRoundTrip.csett t
  | csetmode mode => exact Laws.FieldsRoundTrip.csetmode mode
  | geng rho => exact Laws.FieldsRoundTrip.geng rho
  | genb t => exact Laws.FieldsRoundTrip.genb t
  | enc => exact Laws.FieldsRoundTrip.enc
  | synd => exact Laws.FieldsRoundTrip.synd
  | bma => exact Laws.FieldsRoundTrip.bma
  | chien => exact Laws.FieldsRoundTrip.chien
  | omega => exact Laws.FieldsRoundTrip.omega
  | forney => exact Laws.FieldsRoundTrip.forney
  | correct => exact Laws.FieldsRoundTrip.correct
  | decode => exact Laws.FieldsRoundTrip.decode

/-- Settles O2: the fields of a command's word are those it was made of, and they decode to the command. -/
theorem encodedCommandsDecode : Obligations.EncodedCommandsDecode := fun i => by
  rw [decode, encode, Fields.ofWord_toWord, decodeFields_encodeFields]

/-! ### Which fields a format decodes to a command -/

section Formats

variable {i j : Instr} {d : Decoded} {f : Fields}

theorem needZero_eq_ok_iff {unusedAreZero : Bool} :
    needZero unusedAreZero d = .ok i ↔ unusedAreZero = true ∧ d = .ok i := by
  cases unusedAreZero <;> simp [needZero]

theorem withSel_eq_ok_iff {k : BitVec 4} {g : ArrSel → Decoded} :
    withSel k g = .ok i ↔ ∃ sel : ArrSel, sel.number = k ∧ g sel = .ok i := by
  constructor
  · intro h
    rw [withSel] at h
    split at h
    · exact ⟨_, ArrSel.number_of_ofNumber ‹_›, h⟩
    · cases h
  · rintro ⟨sel, rfl, h⟩
    rwa [withSel_number]

theorem withCsr_eq_ok_iff {k : BitVec 12} {g : Csr → Decoded} :
    withCsr k g = .ok i ↔ ∃ c : Csr, c.number = k ∧ g c = .ok i := by
  constructor
  · intro h
    rw [withCsr] at h
    split at h
    · exact ⟨_, Csr.number_of_ofNumber ‹_›, h⟩
    · cases h
  · rintro ⟨c, rfl, h⟩
    rwa [withCsr_number]

theorem formatZ_eq_ok_iff : formatZ f j = .ok i ↔ f.a = 0 ∧ f.b = 0 ∧ j = i := by
  rw [formatZ, needZero_eq_ok_iff, beq_iff_eq, Fields.imm_eq_zero_iff, and_assoc, Except.ok.injEq]

theorem formatA_eq_ok_iff {mk : BitVec 12 → Instr} : formatA f mk = .ok i ↔ f.b = 0 ∧ mk f.a = i := by
  simp [formatA, needZero_eq_ok_iff]

theorem formatAB_eq_ok_iff {mk : BitVec 12 → BitVec 12 → Instr} : formatAB f mk = .ok i ↔ mk f.a f.b = i := by
  simp [formatAB]

theorem formatI12_eq_ok_iff {mk : BitVec 12 → Instr} : formatI12 f mk = .ok i ↔ f.a = 0 ∧ mk f.b = i := by
  simp [formatI12, needZero_eq_ok_iff]

theorem formatP3_eq_ok_iff {mk : ArrSel → ArrSel → ArrSel → Instr} : formatP3 f mk = .ok i ↔
    f.b = 0 ∧ ∃ pd : ArrSel, pd.number = f.pd ∧ ∃ pa : ArrSel, pa.number = f.pa ∧
      ∃ pb : ArrSel, pb.number = f.pb ∧ mk pd pa pb = i := by
  simp [formatP3, needZero_eq_ok_iff, withSel_eq_ok_iff]

theorem formatP1S_eq_ok_iff {mk : ArrSel → Instr} : formatP1S f mk = .ok i ↔
    f.pd = 0 ∧ f.pb = 0 ∧ f.b = 0 ∧ ∃ pa : ArrSel, pa.number = f.pa ∧ mk pa = i := by
  simp [formatP1S, needZero_eq_ok_iff, withSel_eq_ok_iff, and_assoc]

end Formats

/-! ### A decoded word is its command's encoding -/

section Groups

variable {fn : BitVec 4} {a b : BitVec 12} {i : Instr}

/-- Format Z decodes only the word it encodes (R85, R94). -/
theorem encodeFields_of_formatZ {f : Fields} {j : Instr} (hj : encodeFields j = ⟨f.grp, f.fn, 0, 0⟩)
    (h : formatZ f j = .ok i) : encodeFields i = f := by
  obtain ⟨grp, fn, a, b⟩ := f
  obtain ⟨rfl, rfl, rfl⟩ := formatZ_eq_ok_iff.1 h
  exact hj

/-- Format A decodes only the words it encodes (R85, R94). -/
theorem encodeFields_of_formatA {f : Fields} {mk : BitVec 12 → Instr}
    (hmk : ∀ a, encodeFields (mk a) = ⟨f.grp, f.fn, a, 0⟩) (h : formatA f mk = .ok i) : encodeFields i = f := by
  obtain ⟨grp, fn, a, b⟩ := f
  obtain ⟨rfl, rfl⟩ := formatA_eq_ok_iff.1 h
  exact hmk a

theorem encodeFields_of_decodeSys (h : decodeSys ⟨0, fn, a, b⟩ = .ok i) : encodeFields i = ⟨0, fn, a, b⟩ := by
  rw [decodeSys] at h
  split at h
  case h_4 => cases h
  all_goals obtain rfl := eq_ofNat_of_toNat_eq ‹fn.toNat = _›
  case h_1 | h_2 => exact encodeFields_of_formatZ rfl h
  case h_3 =>
    simp only [needZero_eq_ok_iff, withCsr_eq_ok_iff, beq_iff_eq, Except.ok.injEq] at h
    obtain ⟨rfl, c, rfl, rfl⟩ := h
    rfl

theorem encodeFields_of_decodeFld (h : decodeFld ⟨1, fn, a, b⟩ = .ok i) : encodeFields i = ⟨1, fn, a, b⟩ := by
  rw [decodeFld] at h
  split at h
  case h_12 => cases h
  all_goals obtain rfl := eq_ofNat_of_toNat_eq ‹fn.toNat = _›
  case h_1 =>
    cases h
    exact immFields_mk_imm _ _ _ _
  case h_2 =>
    simp only [needZero_eq_ok_iff, beq_iff_eq, Except.ok.injEq] at h
    obtain ⟨hhigh, rfl⟩ := h
    rw [encodeFields, setWidth_extractLsb'_of_lt ((extractLsb'_eq_zero_iff _).1 hhigh)]
    exact immFields_mk_imm _ _ _ _
  case h_3 => exact encodeFields_of_formatZ rfl h
  case h_4 | h_5 | h_6 | h_8 => exact formatAB_eq_ok_iff.1 h ▸ rfl
  case h_7 | h_9 | h_10 | h_11 => exact encodeFields_of_formatA (fun _ => rfl) h

theorem encodeFields_of_decodePwr (h : decodePwr ⟨2, fn, a, b⟩ = .ok i) : encodeFields i = ⟨2, fn, a, b⟩ := by
  simp only [decodePwr, withSel_eq_ok_iff, Except.ok.injEq] at h
  obtain ⟨sel, rfl, rfl⟩ := h
  rfl

theorem encodeFields_of_decodePrd (h : decodePrd ⟨3, fn, a, b⟩ = .ok i) : encodeFields i = ⟨3, fn, a, b⟩ := by
  simp only [decodePrd, needZero_eq_ok_iff, withSel_eq_ok_iff, beq_iff_eq, Except.ok.injEq] at h
  obtain ⟨rfl, sel, rfl, rfl⟩ := h
  rfl

theorem encodeFields_of_decodePoly (h : decodePoly ⟨4, fn, a, b⟩ = .ok i) : encodeFields i = ⟨4, fn, a, b⟩ := by
  obtain ⟨pd, pa, pb, rfl⟩ := exists_selectorField a
  rw [decodePoly] at h
  split at h
  case h_9 => cases h
  all_goals
    obtain rfl := eq_ofNat_of_toNat_eq ‹fn.toNat = _›
    simp only [formatP1S_eq_ok_iff, formatP3_eq_ok_iff, needZero_eq_ok_iff, withSel_eq_ok_iff, Fields.pd_selectorField,
      Fields.pa_selectorField, Fields.pb_selectorField, Bool.and_eq_true, beq_iff_eq, Except.ok.injEq] at h
  case h_1 =>
    obtain ⟨⟨⟨rfl, rfl⟩, rfl⟩, pd, rfl, rfl⟩ := h
    rfl
  case h_2 =>
    obtain ⟨⟨rfl, rfl⟩, pd, rfl, pa, rfl, rfl⟩ := h
    rfl
  case h_3 | h_4 =>
    obtain ⟨rfl, rfl, rfl, pa, rfl, rfl⟩ := h
    rfl
  case h_5 | h_6 =>
    obtain ⟨rfl, pd, rfl, pa, rfl, pb, rfl, rfl⟩ := h
    rfl
  case h_7 =>
    obtain ⟨⟨rfl, rfl⟩, pa, rfl, pb, rfl, rfl⟩ := h
    rfl
  case h_8 =>
    obtain ⟨⟨rfl, rfl⟩, pa, rfl, rfl⟩ := h
    rfl

theorem encodeFields_of_decodeCodec (h : decodeCodec ⟨5, fn, a, b⟩ = .ok i) : encodeFields i = ⟨5, fn, a, b⟩ := by
  rw [decodeCodec] at h
  split at h
  case h_14 => cases h
  all_goals obtain rfl := eq_ofNat_of_toNat_eq ‹fn.toNat = _›
  case h_1 | h_2 =>
    obtain ⟨rfl, rfl⟩ := formatI12_eq_ok_iff.1 h
    rfl
  case h_3 =>
    simp only [needZero_eq_ok_iff, beq_iff_eq, Except.ok.injEq] at h
    obtain ⟨hhigh, rfl⟩ := h
    rw [encodeFields, Mode.bit_ofBit, setWidth_extractLsb'_of_lt ((extractLsb'_eq_zero_iff _).1 hhigh)]
    exact immFields_mk_imm _ _ _ _
  case h_4 | h_5 => exact encodeFields_of_formatA (fun _ => rfl) h
  all_goals exact encodeFields_of_formatZ rfl h

end Groups

/-- No bit of a word that decodes is ignored (R94, R95). -/
theorem encodeFields_of_decodeFields {f : Fields} {i : Instr} (h : decodeFields f = .ok i) : encodeFields i = f := by
  obtain ⟨grp, fn, a, b⟩ := f
  rw [decodeFields] at h
  split at h
  case h_7 => cases h
  all_goals obtain rfl := eq_ofNat_of_toNat_eq ‹grp.toNat = _›
  case h_1 => exact encodeFields_of_decodeSys h
  case h_2 => exact encodeFields_of_decodeFld h
  case h_3 => exact encodeFields_of_decodePwr h
  case h_4 => exact encodeFields_of_decodePrd h
  case h_5 => exact encodeFields_of_decodePoly h
  case h_6 => exact encodeFields_of_decodeCodec h

/-- Settles O3: the fields of a word that decodes are those of the command's word, and they are all of the word. -/
theorem decodedWordsEncodeBack : Obligations.DecodedWordsEncodeBack := fun w i h => by
  rw [encode, encodeFields_of_decodeFields h, Fields.toWord_ofWord]

/-- Decoding and encoding are each other's inverses (R93). -/
theorem decode_eq_ok_iff {w : Word} {i : Instr} : decode w = .ok i ↔ encode i = w :=
  ⟨decodedWordsEncodeBack w i, fun h => h ▸ encodedCommandsDecode i⟩

/-! ### What a row of the opcode table accepts -/

theorem Fields.ofWord_and (w m : Word) : Fields.ofWord (w &&& m) =
    ⟨(Fields.ofWord w).grp &&& (Fields.ofWord m).grp, (Fields.ofWord w).fn &&& (Fields.ofWord m).fn,
      (Fields.ofWord w).a &&& (Fields.ofWord m).a, (Fields.ofWord w).b &&& (Fields.ofWord m).b⟩ := by
  simp only [Fields.ofWord, BitVec.extractLsb'_and]

theorem Fields.toWord_and_eq_iff (f : Fields) (m p : Word) : f.toWord &&& m = p ↔
    f.grp &&& (Fields.ofWord m).grp = (Fields.ofWord p).grp ∧ f.fn &&& (Fields.ofWord m).fn = (Fields.ofWord p).fn ∧
    f.a &&& (Fields.ofWord m).a = (Fields.ofWord p).a ∧ f.b &&& (Fields.ofWord m).b = (Fields.ofWord p).b := by
  have hiff : f.toWord &&& m = p ↔ Fields.ofWord (f.toWord &&& m) = Fields.ofWord p :=
    ⟨congrArg _, Fields.ofWord_injective⟩
  rw [hiff, Fields.ofWord_and, Fields.ofWord_toWord]
  cases Fields.ofWord p
  rw [Fields.mk.injEq]

section Masks

variable (pd pa pb : BitVec 4)

theorem and_0xF (x : BitVec 4) : x &&& 15#4 = x := BitVec.and_allOnes

theorem and_0xFFF (x : BitVec 12) : x &&& 4095#12 = x := BitVec.and_allOnes

theorem and_0xFFE_eq_zero_iff (x : BitVec 12) : x &&& 4094#12 = 0#12 ↔ x.toNat ≤ 1 := by
  revert x
  decide +kernel

theorem selectorField_and_0x0FF_eq_zero_iff : selectorField pd pa pb &&& 255#12 = 0#12 ↔ pa = 0 ∧ pb = 0 := by
  revert pd pa pb
  decide +kernel

theorem selectorField_and_0x00F_eq_zero_iff : selectorField pd pa pb &&& 15#12 = 0#12 ↔ pb = 0 := by
  revert pd pa pb
  decide +kernel

theorem selectorField_and_0xF0F_eq_zero_iff : selectorField pd pa pb &&& 3855#12 = 0#12 ↔ pd = 0 ∧ pb = 0 := by
  revert pd pa pb
  decide +kernel

theorem selectorField_and_0xF00_eq_zero_iff : selectorField pd pa pb &&& 3840#12 = 0#12 ↔ pd = 0 := by
  revert pd pa pb
  decide +kernel

/-- The operand of `FSETP` leaves the bits its row fixes at 0 (R89). -/
theorem setWidth_and_0xFFE (p : BitVec 13) : (p.setWidth 24).extractLsb' 12 12 &&& 4094#12 = 0#12 := by
  revert p
  decide +kernel

end Masks

section Selectors

variable (f : Fields)

@[simp] theorem Fields.extractLsb'_toWord_24 : f.toWord.extractLsb' 24 4 = f.fn := congrArg Fields.fn f.ofWord_toWord

@[simp] theorem Fields.extractLsb'_toWord_12 : f.toWord.extractLsb' 12 12 = f.a := congrArg Fields.a f.ofWord_toWord

@[simp] theorem Fields.extractLsb'_toWord_20 : f.toWord.extractLsb' 20 4 = f.pd := by
  rw [Fields.pd, ← Fields.extractLsb'_toWord_12, extractLsb'_extractLsb'_of_add_le _ (by decide)]

@[simp] theorem Fields.extractLsb'_toWord_16 : f.toWord.extractLsb' 16 4 = f.pa := by
  rw [Fields.pa, ← Fields.extractLsb'_toWord_12, extractLsb'_extractLsb'_of_add_le _ (by decide)]

@[simp] theorem Fields.extractLsb'_toWord_12_4 : f.toWord.extractLsb' 12 4 = f.pb := by
  rw [Fields.pb, ← Fields.extractLsb'_toWord_12, extractLsb'_extractLsb'_of_add_le _ (by decide)]

end Selectors

/-- A row's test, field by field. -/
theorem OpRow.accepts_toWord_iff (r : OpRow) (f : Fields) : r.accepts f.toWord = true ↔
    (f.grp &&& (Fields.ofWord r.mask).grp = (Fields.ofWord r.pattern).grp ∧
      f.fn &&& (Fields.ofWord r.mask).fn = (Fields.ofWord r.pattern).fn ∧
      f.a &&& (Fields.ofWord r.mask).a = (Fields.ofWord r.pattern).a ∧
      f.b &&& (Fields.ofWord r.mask).b = (Fields.ofWord r.pattern).b) ∧
    (∀ lo ∈ r.selLows, (f.toWord.extractLsb' lo 4).toNat ≤ 9) ∧ (r.csr = true → f.a.toNat ≤ 12) := by
  cases hcsr : r.csr <;> simp [OpRow.accepts, Fields.toWord_and_eq_iff, and_assoc, hcsr, -BitVec.extractLsb'_toNat]

/-! ### The rows and the commands

A row accepts the words that encode its commands and no others; what the decoder has to do with the rows follows, since
decoding is the inverse of encoding. -/

/-- The row of a command: the table lists the commands in the order of `Instr`. -/
def Instr.row (i : Instr) : OpRow := opRows[i.ctorIdx]'(by cases i <;> exact of_decide_eq_true rfl)

theorem Instr.row_mem (i : Instr) : i.row ∈ opRows := List.getElem_mem _

theorem Instr.row_mnemonic (i : Instr) : i.row.mnemonic = i.mnemonic := by cases i <;> rfl

theorem opRows_mnemonic_injective : ∀ r ∈ opRows, ∀ r' ∈ opRows, r.mnemonic = r'.mnemonic → r = r' :=
  fun r hr r' hr' h => List.inj_on_of_nodup_map (f := OpRow.mnemonic) (by decide) hr hr' h

/-- Every word of a command is accepted by the command's row (R93). -/
theorem Instr.row_accepts_encode (i : Instr) : i.row.accepts (encode i) = true := by
  rw [encode]
  cases i
  case csetmode mode => cases mode <;> rfl
  all_goals
    simp only [Instr.row, Instr.ctorIdx, opRows, opRowsSys, opRowsFld, opRowsCell, opRowsPoly, opRowsCodec,
      List.cons_append, List.nil_append, List.getElem_cons_succ, List.getElem_cons_zero, OpRow.accepts_toWord_iff]
    simp [Fields.ofWord, encodeFields, immFields, and_0xF, selectorField_and_0x0FF_eq_zero_iff,
      selectorField_and_0x00F_eq_zero_iff, selectorField_and_0xF0F_eq_zero_iff, selectorField_and_0xF00_eq_zero_iff,
      setWidth_and_0xFFE, -BitVec.extractLsb'_toNat]

section Groups

variable {f : Fields}

theorem exists_encodeFields_of_acceptsSys : ∀ r ∈ opRowsSys, r.accepts f.toWord = true →
    ∃ i : Instr, i.row = r ∧ encodeFields i = f := by
  obtain ⟨grp, fn, a, b⟩ := f
  simp only [opRowsSys, OpRow.accepts_toWord_iff, Fields.ofWord, BitVec.reduceExtractLsb', BitVec.ofNat_eq_ofNat,
    List.mem_cons, List.not_mem_nil, or_false, forall_eq_or_imp, forall_eq, and_imp, and_0xF, and_0xFFF,
    BitVec.and_zero, Bool.false_eq_true, false_imp_iff, forall_const, ← Csr.exists_number_iff, forall_exists_index]
  refine ⟨?_, ?_, ?_⟩
  · rintro rfl rfl rfl rfl
    exact ⟨.nop, rfl, rfl⟩
  · rintro rfl rfl rfl rfl
    exact ⟨.reset, rfl, rfl⟩
  · rintro rfl rfl rfl c rfl
    exact ⟨.rdcsr c, rfl, rfl⟩

theorem exists_encodeFields_of_acceptsFld : ∀ r ∈ opRowsFld, r.accepts f.toWord = true →
    ∃ i : Instr, i.row = r ∧ encodeFields i = f := by
  obtain ⟨grp, fn, a, b⟩ := f
  simp only [opRowsFld, OpRow.accepts_toWord_iff, Fields.ofWord, BitVec.reduceExtractLsb', BitVec.ofNat_eq_ofNat,
    List.mem_cons, List.not_mem_nil, or_false, forall_eq_or_imp, forall_eq, and_imp, and_0xF, and_0xFFF,
    BitVec.and_zero, Bool.false_eq_true, false_imp_iff, forall_const, and_0xFFE_eq_zero_iff]
  refine ⟨?_, ?_, ?_, ?_, ?_, ?_, ?_, ?_, ?_, ?_, ?_⟩
  · rintro rfl rfl
    exact ⟨.fsetm _, rfl, immFields_mk_imm _ _ _ _⟩
  · rintro rfl rfl ha
    have hlt : (Fields.imm ⟨1, 1, a, b⟩).toNat < 2 ^ 13 := by
      rw [Fields.toNat_imm]
      dsimp only
      omega
    refine ⟨.fsetp ((Fields.imm ⟨1, 1, a, b⟩).extractLsb' 0 13), rfl, ?_⟩
    rw [encodeFields, setWidth_extractLsb'_of_lt hlt]
    exact immFields_mk_imm _ _ _ _
  · rintro rfl rfl rfl rfl
    exact ⟨.finit, rfl, rfl⟩
  · rintro rfl rfl
    exact ⟨.fadd a b, rfl, rfl⟩
  · rintro rfl rfl
    exact ⟨.fmul a b, rfl, rfl⟩
  · rintro rfl rfl
    exact ⟨.fdiv a b, rfl, rfl⟩
  · rintro rfl rfl rfl
    exact ⟨.finv a, rfl, rfl⟩
  · rintro rfl rfl
    exact ⟨.fpow a b, rfl, rfl⟩
  · rintro rfl rfl rfl
    exact ⟨.fisprim a, rfl, rfl⟩
  · rintro rfl rfl rfl
    exact ⟨.fexp a, rfl, rfl⟩
  · rintro rfl rfl rfl
    exact ⟨.flog a, rfl, rfl⟩

theorem exists_encodeFields_of_acceptsCell : ∀ r ∈ opRowsCell, r.accepts f.toWord = true →
    ∃ i : Instr, i.row = r ∧ encodeFields i = f := by
  obtain ⟨grp, fn, a, b⟩ := f
  simp only [opRowsCell, OpRow.accepts_toWord_iff, Fields.ofWord, BitVec.reduceExtractLsb', BitVec.ofNat_eq_ofNat,
    List.mem_cons, List.not_mem_nil, or_false, forall_eq_or_imp, forall_eq, and_imp, and_0xF, and_0xFFF,
    BitVec.and_zero, Bool.false_eq_true, false_imp_iff, forall_const, Fields.extractLsb'_toWord_24,
    ← ArrSel.exists_number_iff, forall_exists_index]
  refine ⟨?_, ?_⟩
  · rintro rfl sel rfl
    exact ⟨.pwr sel a b, rfl, rfl⟩
  · rintro rfl rfl sel rfl
    exact ⟨.prd sel a, rfl, rfl⟩

theorem exists_encodeFields_of_acceptsPoly : ∀ r ∈ opRowsPoly, r.accepts f.toWord = true →
    ∃ i : Instr, i.row = r ∧ encodeFields i = f := by
  obtain ⟨grp, fn, a, b⟩ := f
  obtain ⟨pd, pa, pb, rfl⟩ := exists_selectorField a
  simp only [opRowsPoly, OpRow.accepts_toWord_iff, Fields.ofWord, BitVec.reduceExtractLsb', BitVec.ofNat_eq_ofNat,
    List.mem_cons, List.not_mem_nil, or_false, forall_eq_or_imp, forall_eq, and_imp, and_0xF, and_0xFFF,
    BitVec.and_zero, Bool.false_eq_true, false_imp_iff, forall_const, Fields.extractLsb'_toWord_20,
    Fields.extractLsb'_toWord_16, Fields.extractLsb'_toWord_12_4, Fields.pd_selectorField, Fields.pa_selectorField,
    Fields.pb_selectorField, selectorField_and_0x0FF_eq_zero_iff, selectorField_and_0x00F_eq_zero_iff,
    selectorField_and_0xF0F_eq_zero_iff, selectorField_and_0xF00_eq_zero_iff, ← ArrSel.exists_number_iff,
    forall_exists_index]
  refine ⟨?_, ?_, ?_, ?_, ?_, ?_, ?_, ?_⟩
  · rintro rfl rfl rfl rfl rfl pd rfl
    exact ⟨.pclr pd, rfl, rfl⟩
  · rintro rfl rfl rfl rfl pd rfl pa rfl
    exact ⟨.pmov pd pa, rfl, rfl⟩
  · rintro rfl rfl rfl rfl rfl pa rfl
    exact ⟨.pdeg pa, rfl, rfl⟩
  · rintro rfl rfl rfl rfl rfl pa rfl
    exact ⟨.pisz pa, rfl, rfl⟩
  · rintro rfl rfl rfl pd rfl pa rfl pb rfl
    exact ⟨.padd pd pa pb, rfl, rfl⟩
  · rintro rfl rfl rfl pd rfl pa rfl pb rfl
    exact ⟨.pmul pd pa pb, rfl, rfl⟩
  · rintro rfl rfl rfl rfl pa rfl pb rfl
    exact ⟨.pdivmod pa pb, rfl, rfl⟩
  · rintro rfl rfl rfl rfl pa rfl
    exact ⟨.peval pa b, rfl, rfl⟩

theorem exists_encodeFields_of_acceptsCodec : ∀ r ∈ opRowsCodec, r.accepts f.toWord = true →
    ∃ i : Instr, i.row = r ∧ encodeFields i = f := by
  obtain ⟨grp, fn, a, b⟩ := f
  simp only [opRowsCodec, OpRow.accepts_toWord_iff, Fields.ofWord, BitVec.reduceExtractLsb', BitVec.ofNat_eq_ofNat,
    List.mem_cons, List.not_mem_nil, or_false, forall_eq_or_imp, forall_eq, and_imp, and_0xF, and_0xFFF,
    BitVec.and_zero, Bool.false_eq_true, false_imp_iff, forall_const, and_0xFFE_eq_zero_iff]
  refine ⟨?_, ?_, ?_, ?_, ?_, ?_, ?_, ?_, ?_, ?_, ?_, ?_, ?_⟩
  · rintro rfl rfl rfl
    exact ⟨.csetn b, rfl, rfl⟩
  · rintro rfl rfl rfl
    exact ⟨.csett b, rfl, rfl⟩
  · rintro rfl rfl rfl hb
    have hlt : (Fields.imm ⟨5, 2, 0, b⟩).toNat < 2 ^ 1 := by
      rw [Fields.toNat_imm]
      simpa [Nat.lt_succ_iff] using hb
    refine ⟨.csetmode (.ofBit ((Fields.imm ⟨5, 2, 0, b⟩).extractLsb' 0 1)), rfl, ?_⟩
    rw [encodeFields, Mode.bit_ofBit, setWidth_extractLsb'_of_lt hlt]
    exact immFields_mk_imm _ _ _ _
  · rintro rfl rfl rfl
    exact ⟨.geng a, rfl, rfl⟩
  · rintro rfl rfl rfl
    exact ⟨.genb a, rfl, rfl⟩
  · rintro rfl rfl rfl rfl
    exact ⟨.enc, rfl, rfl⟩
  · rintro rfl rfl rfl rfl
    exact ⟨.synd, rfl, rfl⟩
  · rintro rfl rfl rfl rfl
    exact ⟨.bma, rfl, rfl⟩
  · rintro rfl rfl rfl rfl
    exact ⟨.chien, rfl, rfl⟩
  · rintro rfl rfl rfl rfl
    exact ⟨.omega, rfl, rfl⟩
  · rintro rfl rfl rfl rfl
    exact ⟨.forney, rfl, rfl⟩
  · rintro rfl rfl rfl rfl
    exact ⟨.correct, rfl, rfl⟩
  · rintro rfl rfl rfl rfl
    exact ⟨.decode, rfl, rfl⟩

end Groups

/-- A row accepts exactly the words of its commands (R93). -/
theorem OpRow.accepts_iff {r : OpRow} (hr : r ∈ opRows) (w : Word) :
    r.accepts w = true ↔ ∃ i : Instr, i.row = r ∧ encode i = w := by
  constructor
  · intro h
    rw [← Fields.toWord_ofWord w] at h
    have hfields : ∃ i : Instr, i.row = r ∧ encodeFields i = Fields.ofWord w := by
      simp only [opRows, List.mem_append] at hr
      obtain (((hr | hr) | hr) | hr) | hr := hr
      · exact exists_encodeFields_of_acceptsSys r hr h
      · exact exists_encodeFields_of_acceptsFld r hr h
      · exact exists_encodeFields_of_acceptsCell r hr h
      · exact exists_encodeFields_of_acceptsPoly r hr h
      · exact exists_encodeFields_of_acceptsCodec r hr h
    obtain ⟨i, hrow, hi⟩ := hfields
    exact ⟨i, hrow, by rw [encode, hi, Fields.toWord_ofWord]⟩
  · rintro ⟨i, rfl, rfl⟩
    exact i.row_accepts_encode

/-! ### Which fields no command has -/

/-- Decoding answers no command. -/
def Decoded.Refused (d : Decoded) : Prop := ∃ why, d = .error why

theorem refused_error (why : Illegal) : Decoded.Refused (.error why) := ⟨why, rfl⟩

theorem not_refused_ok (i : Instr) : ¬Decoded.Refused (.ok i) := fun ⟨_, h⟩ => by cases h

theorem refused_needZero_iff (unusedAreZero : Bool) (d : Decoded) :
    (needZero unusedAreZero d).Refused ↔ unusedAreZero = false ∨ d.Refused := by
  cases unusedAreZero <;> simp [needZero, refused_error]

/-- A selector field refuses 10 to 15 (R96), and what the rest of the format refuses. -/
theorem refused_withSel_iff {k : BitVec 4} {g : ArrSel → Decoded} {P : Prop} (hg : ∀ sel, (g sel).Refused ↔ P) :
    (withSel k g).Refused ↔ 10 ≤ k.toNat ∨ P := by
  by_cases hk : k.toNat ≤ 9
  · obtain ⟨sel, rfl⟩ := (ArrSel.exists_number_iff k).2 hk
    rw [withSel_number, hg]
    exact (or_iff_right (by omega)).symm
  · have hnone : ArrSel.ofNumber k = none := Option.eq_none_iff_forall_ne_some.2 fun sel hsel =>
      hk ((ArrSel.exists_number_iff k).1 ⟨sel, ArrSel.number_of_ofNumber hsel⟩)
    rw [withSel, hnone]
    exact iff_of_true (refused_error _) (.inl (by omega))

theorem refused_withSel_ok_iff {k : BitVec 4} {mk : ArrSel → Instr} :
    (withSel k fun sel => .ok (mk sel)).Refused ↔ 10 ≤ k.toNat := by
  rw [refused_withSel_iff fun sel => iff_of_false (not_refused_ok _) id, or_false]

theorem refused_withCsr_ok_iff {k : BitVec 12} {mk : Csr → Instr} :
    (withCsr k fun c => .ok (mk c)).Refused ↔ 13 ≤ k.toNat := by
  by_cases hk : k.toNat ≤ 12
  · obtain ⟨c, rfl⟩ := (Csr.exists_number_iff k).2 hk
    rw [withCsr_number]
    exact iff_of_false (not_refused_ok _) (by omega)
  · have hnone : Csr.ofNumber k = none := Option.eq_none_iff_forall_ne_some.2 fun c hc =>
      hk ((Csr.exists_number_iff k).1 ⟨c, Csr.number_of_ofNumber hc⟩)
    rw [withCsr, hnone]
    exact iff_of_true (refused_error _) (by omega)

section Formats

variable (f : Fields)

theorem refused_formatZ_iff (i : Instr) : (formatZ f i).Refused ↔ f.a.toNat * 4096 + f.b.toNat ≠ 0 := by
  simp [formatZ, refused_needZero_iff, not_refused_ok, BitVec.toNat_eq, Fields.toNat_imm]

theorem refused_formatA_iff (mk : BitVec 12 → Instr) : (formatA f mk).Refused ↔ f.b.toNat ≠ 0 := by
  simp [formatA, refused_needZero_iff, not_refused_ok, BitVec.toNat_eq]

theorem refused_formatI12_iff (mk : BitVec 12 → Instr) : (formatI12 f mk).Refused ↔ f.a.toNat ≠ 0 := by
  simp [formatI12, refused_needZero_iff, not_refused_ok, BitVec.toNat_eq]

theorem refused_formatP3_iff (mk : ArrSel → ArrSel → ArrSel → Instr) : (formatP3 f mk).Refused ↔
    f.b.toNat ≠ 0 ∨ 10 ≤ f.pd.toNat ∨ 10 ≤ f.pa.toNat ∨ 10 ≤ f.pb.toNat := by
  rw [formatP3, refused_needZero_iff,
    refused_withSel_iff fun _ => refused_withSel_iff fun _ => refused_withSel_ok_iff]
  simp [BitVec.toNat_eq]

theorem refused_formatP1S_iff (mk : ArrSel → Instr) : (formatP1S f mk).Refused ↔
    f.pd.toNat ≠ 0 ∨ f.pb.toNat ≠ 0 ∨ f.b.toNat ≠ 0 ∨ 10 ≤ f.pa.toNat := by
  rw [formatP1S, refused_needZero_iff, refused_withSel_ok_iff]
  simp [BitVec.toNat_eq, imp_iff_not_or, or_assoc]

end Formats

/-! ### What R97 lists, group by group -/

section Groups

variable (f : Fields)

theorem refused_decodeSys_iff : (decodeSys f).Refused ↔ 3 ≤ f.fn.toNat ∨
    f.fn.toNat ≤ 1 ∧ f.a.toNat * 4096 + f.b.toNat ≠ 0 ∨ f.fn.toNat = 2 ∧ (13 ≤ f.a.toNat ∨ f.b.toNat ≠ 0) := by
  rw [decodeSys]
  split
  · rw [refused_formatZ_iff]
    omega
  · rw [refused_formatZ_iff]
    omega
  · rw [refused_needZero_iff, refused_withCsr_ok_iff, beq_zero_eq_false_iff]
    omega
  · simp only [imp_false] at *
    exact iff_of_true (refused_error _) (.inl (by omega))

theorem refused_decodeFld_iff : (decodeFld f).Refused ↔ 11 ≤ f.fn.toNat ∨
    f.fn.toNat = 2 ∧ f.a.toNat * 4096 + f.b.toNat ≠ 0 ∨ f.fn.toNat = 1 ∧ 8192 ≤ f.a.toNat * 4096 + f.b.toNat ∨
    (f.fn.toNat = 6 ∨ f.fn.toNat = 8 ∨ f.fn.toNat = 9 ∨ f.fn.toNat = 10) ∧ f.b.toNat ≠ 0 := by
  rw [decodeFld]
  split
  case h_2 =>
    rw [refused_needZero_iff, beq_extractLsb'_eq_false_iff, or_iff_left (not_refused_ok _), Fields.toNat_imm]
    omega
  case h_3 => rw [refused_formatZ_iff]; omega
  case h_7 | h_9 | h_10 | h_11 => rw [refused_formatA_iff]; omega
  case h_12 =>
    simp only [imp_false] at *
    exact iff_of_true (refused_error _) (.inl (by omega))
  all_goals exact iff_of_false (not_refused_ok _) (by omega)

theorem refused_decodePwr_iff : (decodePwr f).Refused ↔ 10 ≤ f.fn.toNat := refused_withSel_ok_iff

theorem refused_decodePrd_iff : (decodePrd f).Refused ↔ 10 ≤ f.fn.toNat ∨ f.b.toNat ≠ 0 := by
  rw [decodePrd, refused_needZero_iff, refused_withSel_ok_iff, beq_zero_eq_false_iff, or_comm]

theorem refused_decodePoly_iff : (decodePoly f).Refused ↔ 8 ≤ f.fn.toNat ∨
    f.fn.toNat = 0 ∧ (10 ≤ f.pd.toNat ∨ f.pa.toNat ≠ 0 ∨ f.pb.toNat ≠ 0 ∨ f.b.toNat ≠ 0) ∨
    f.fn.toNat = 1 ∧ (10 ≤ f.pd.toNat ∨ 10 ≤ f.pa.toNat ∨ f.pb.toNat ≠ 0 ∨ f.b.toNat ≠ 0) ∨
    (f.fn.toNat = 2 ∨ f.fn.toNat = 3) ∧ (f.pd.toNat ≠ 0 ∨ 10 ≤ f.pa.toNat ∨ f.pb.toNat ≠ 0 ∨ f.b.toNat ≠ 0) ∨
    (f.fn.toNat = 4 ∨ f.fn.toNat = 5) ∧
      (10 ≤ f.pd.toNat ∨ 10 ≤ f.pa.toNat ∨ 10 ≤ f.pb.toNat ∨ f.b.toNat ≠ 0) ∨
    f.fn.toNat = 6 ∧ (f.pd.toNat ≠ 0 ∨ 10 ≤ f.pa.toNat ∨ 10 ≤ f.pb.toNat ∨ f.b.toNat ≠ 0) ∨
    f.fn.toNat = 7 ∧ (f.pd.toNat ≠ 0 ∨ 10 ≤ f.pa.toNat ∨ f.pb.toNat ≠ 0) := by
  rw [decodePoly]
  split
  case h_1 =>
    simp only [refused_needZero_iff, refused_withSel_ok_iff, Bool.and_eq_false_iff, beq_zero_eq_false_iff]
    omega
  case h_2 =>
    rw [refused_needZero_iff, refused_withSel_iff fun _ => refused_withSel_ok_iff]
    simp only [Bool.and_eq_false_iff, beq_zero_eq_false_iff]
    omega
  case h_3 | h_4 => rw [refused_formatP1S_iff]; omega
  case h_5 | h_6 => rw [refused_formatP3_iff]; omega
  case h_7 =>
    rw [refused_needZero_iff, refused_withSel_iff fun _ => refused_withSel_ok_iff]
    simp only [Bool.and_eq_false_iff, beq_zero_eq_false_iff]
    omega
  case h_8 =>
    simp only [refused_needZero_iff, refused_withSel_ok_iff, Bool.and_eq_false_iff, beq_zero_eq_false_iff]
    omega
  case h_9 =>
    simp only [imp_false] at *
    exact iff_of_true (refused_error _) (.inl (by omega))

theorem refused_decodeCodec_iff : (decodeCodec f).Refused ↔ 13 ≤ f.fn.toNat ∨
    (5 ≤ f.fn.toNat ∧ f.fn.toNat ≤ 12) ∧ f.a.toNat * 4096 + f.b.toNat ≠ 0 ∨
    (f.fn.toNat = 3 ∨ f.fn.toNat = 4) ∧ f.b.toNat ≠ 0 ∨ (f.fn.toNat = 0 ∨ f.fn.toNat = 1) ∧ f.a.toNat ≠ 0 ∨
    f.fn.toNat = 2 ∧ 2 ≤ f.a.toNat * 4096 + f.b.toNat := by
  rw [decodeCodec]
  split
  case h_1 | h_2 => rw [refused_formatI12_iff]; omega
  case h_3 =>
    rw [refused_needZero_iff, beq_extractLsb'_eq_false_iff, or_iff_left (not_refused_ok _), Fields.toNat_imm]
    omega
  case h_4 | h_5 => rw [refused_formatA_iff]; omega
  case h_14 =>
    simp only [imp_false] at *
    exact iff_of_true (refused_error _) (.inl (by omega))
  all_goals rw [refused_formatZ_iff]; omega

end Groups

end Sys2Proof

/-! ## What a word does -/

namespace Sys2Proof.Machine

/-! ### What running a word does -/

theorem runWord_of_ok {w : Word} {i : Instr} (h : decode w = .ok i) (s : State) : runWord w s = exec i s := by
  rw [runWord, h]

/-- An illegal word faults `IllegalCommand` (60_exceptions.md R247). -/
theorem runWord_of_illegal {w : Word} (h : IllegalWord w) (s : State) : runWord w s = .next (s.faulted 4) := by
  obtain ⟨why, h⟩ := h
  rw [runWord, h]
  exact raise_eq .illegalCommand s

theorem illegalWord_iff {w : Word} : IllegalWord w ↔ ∀ i, decode w ≠ .ok i := by
  rw [IllegalWord]
  cases decode w <;> simp

/-- Everything a word can do: fault with a kind that is raised, or run a command whose checks pass. -/
theorem runWord_cases (w : Word) (s : State) :
    (∃ k : FaultKind, k ≠ .lengthMismatch ∧ runWord w s = .next (s.faulted k.code)) ∨
    ∃ i, decode w = .ok i ∧ runWord w s = .next ((commandEffect i s).answered (commandValue i s)) := by
  cases hdecode : decode w with
  | error why => exact .inl ⟨.illegalCommand, by decide, runWord_of_illegal ⟨why, hdecode⟩ s⟩
  | ok i =>
    rw [runWord_of_ok hdecode]
    cases hfail : firstFailing (commandChecks i s) with
    | some k => exact .inl ⟨k, kind_ne_lengthMismatch hfail, exec_of_fail hfail⟩
    | none => exact .inr ⟨i, rfl, exec_of_pass hfail⟩

/-! ### The statements about words -/

theorem illegalWord_toWord_iff (f : Fields) : IllegalWord f.toWord ↔ (decodeFields f).Refused := by
  rw [IllegalWord, decode, Fields.ofWord_toWord, Decoded.Refused]

/-- Settles O1, by decoding each of the words. -/
theorem writtenWordsDecode : Obligations.WrittenWordsDecode := by
  unfold Obligations.WrittenWordsDecode
  decide

/-- Settles O4: a row accepts the words of its commands, whose mnemonic no other row has, and every command
has a row. -/
theorem decodeFollowsOpcodeTable : Obligations.DecodeFollowsOpcodeTable := by
  refine ⟨fun w r hr => ?_, fun w r hr r' hr' h h' => ?_, fun w => ?_, fun w i => decode_eq_ok_iff,
    fun w s h => runWord_of_illegal h s⟩
  · rw [OpRow.accepts_iff hr]
    constructor
    · rintro ⟨i, rfl, h⟩
      exact ⟨i, decode_eq_ok_iff.2 h, i.row_mnemonic.symm⟩
    · rintro ⟨i, h, hm⟩
      exact ⟨i, opRows_mnemonic_injective _ i.row_mem _ hr (i.row_mnemonic.trans hm), decode_eq_ok_iff.1 h⟩
  · obtain ⟨i, rfl, hi⟩ := (OpRow.accepts_iff hr w).1 h
    obtain ⟨i', rfl, hi'⟩ := (OpRow.accepts_iff hr' w).1 h'
    have hsame : i = i' := Except.ok.inj ((decode_eq_ok_iff.2 hi).symm.trans (decode_eq_ok_iff.2 hi'))
    rw [hsame]
  · rw [illegalWord_iff]
    constructor
    · intro h r hr
      refine Bool.eq_false_iff.2 fun hacc => ?_
      obtain ⟨i, -, hi⟩ := (OpRow.accepts_iff hr w).1 hacc
      exact h i (decode_eq_ok_iff.2 hi)
    · intro h i hi
      have hacc := i.row_accepts_encode
      rw [decode_eq_ok_iff.1 hi, h _ i.row_mem] at hacc
      cases hacc

/-- Settles O5: what R97 lists of a group is what the decoder of that group refuses. -/
theorem illegalWordsAreTheListedOnes : Obligations.IllegalWordsAreTheListedOnes := by
  intro grp fn a b hgrp hfn ha hb
  obtain ⟨f, rfl, rfl, rfl, rfl⟩ := exists_fields hgrp hfn ha hb
  rw [← Fields.toWord_eq_wordOf, illegalWord_toWord_iff, decodeFields]
  simp only [List.mem_cons, Prod.mk.injEq, List.not_mem_nil, or_false]
  split
  case h_7 =>
    simp only [imp_false] at *
    exact iff_of_true (refused_error _) (.inl (by omega))
  all_goals simp only [‹f.grp.toNat = _›, Nat.reduceLeDiff, OfNat.zero_ne_ofNat, OfNat.ofNat_ne_zero, Nat.reduceEqDiff,
    true_and, false_and, false_or, or_false, zero_ne_one, one_ne_zero, OfNat.one_ne_ofNat, OfNat.ofNat_ne_one]
  case h_1 => rw [refused_decodeSys_iff]; omega
  case h_2 => exact refused_decodeFld_iff f
  case h_3 => exact refused_decodePwr_iff f
  case h_4 => exact refused_decodePrd_iff f
  case h_5 =>
    rw [refused_decodePoly_iff, Fields.toNat_pd, Fields.toNat_pa, Fields.toNat_pb]
    omega
  case h_6 => rw [refused_decodeCodec_iff]; omega

/-- Settles O6: an offered word is what runs, and decoding gives back the command that was encoded. -/
theorem stepRunsDecodedCommand : Obligations.StepRunsDecodedCommand := by
  have hstep : ∀ (s : State) (w : Word) (es : List HostEvent), s.pending = .command w :: es →
      step s = runWord w { s with pending := es } := fun s w es hp => by rw [step, hp]; rfl
  refine ⟨fun s w es i hp h => ?_, fun s w es hp h => ?_, fun s i => ?_⟩
  · rw [hstep s w es hp, runWord_of_ok h]
  · rw [hstep s w es hp, runWord_of_illegal h]
  · rw [hstep (s.withFetchWord 32 (encode i).toNat) _ s.pending rfl, Nat.mod_eq_of_lt (encode i).isLt,
      BitVec.ofNat_toNat, BitVec.setWidth_eq, runWord_of_ok (encodedCommandsDecode i)]
    rfl

/-! ### The fields of a response (R84) -/

section Responses

variable (v : BitVec 16) (c : BitVec 4)

@[simp] theorem errField_answer : errField (v.setWidth 32) = 0 := by
  apply BitVec.eq_of_getLsbD_eq
  intro i hi
  simp [errField, BitVec.getLsbD_of_ge v (28 + i) (by omega)]

@[simp] theorem valField_answer : valField (v.setWidth 32) = v := by
  apply BitVec.eq_of_getLsbD_eq
  intro i hi
  simp [valField, hi]
  omega

@[simp] theorem reserved_answer : (v.setWidth 32 : Word).extractLsb' 16 12 = 0 := by
  apply BitVec.eq_of_getLsbD_eq
  intro i hi
  simp

@[simp] theorem errField_fault : errField (c.setWidth 32 <<< 28) = c := by
  revert c
  decide

@[simp] theorem valField_fault : valField (c.setWidth 32 <<< 28) = 0 := by
  revert c
  decide

@[simp] theorem reserved_fault : (c.setWidth 32 <<< 28 : Word).extractLsb' 16 12 = 0 := by
  revert c
  decide

end Responses

theorem FaultKind.code_le (k : FaultKind) : k.code.toNat ≤ 9 := by cases k <;> decide

theorem commandEffect_pending (i : Instr) (s : State) : (commandEffect i s).pending = s.pending := by
  obtain rfl | ⟨m, rfl⟩ | ⟨p, rfl⟩ | rfl | ⟨n, rfl⟩ | ⟨c, rfl⟩ | ⟨mode, rfl⟩ | h := commandEffect_setup_cases i s
  case inr.inr.inr.inr.inr.inr.inr => exact h.pending
  all_goals rfl

/-- No command but `RESET` clears the fault registers (10_state.md R41). -/
theorem commandEffect_faultRegisters (i : Instr) (s : State) :
    i = .reset ∨ ((commandEffect i s).lasterr = s.lasterr ∧ (commandEffect i s).esticky = s.esticky) := by
  obtain rfl | ⟨m, rfl⟩ | ⟨p, rfl⟩ | rfl | ⟨n, rfl⟩ | ⟨c, rfl⟩ | ⟨mode, rfl⟩ | h := commandEffect_setup_cases i s
  · exact .inl rfl
  case inr.inr.inr.inr.inr.inr.inr => exact .inr ⟨h.lasterr, h.esticky⟩
  all_goals exact .inr ⟨rfl, rfl⟩

/-- Settles O8: a word faults or succeeds, and the response tells which by its `err` field. -/
theorem everyWordAnswersOneResponse : Obligations.EveryWordAnswersOneResponse := by
  intro w s
  obtain ⟨k, hk, hrun⟩ | ⟨i, hdecode, hrun⟩ := runWord_cases w s
  · have hthree : k.code ≠ 3 := fun h => hk (FaultKind.code_injective (k' := .lengthMismatch) h)
    refine ⟨_, _, hrun, rfl, rfl, reserved_fault _, ?_⟩
    rw [errField_fault, valField_fault]
    exact ⟨hthree, k.code_le, fun h => absurd h k.code_ne_zero, fun _ => ⟨rfl, rfl⟩,
      fun h => absurd h k.code_ne_zero⟩
  · refine ⟨_, _, hrun, by rw [State.answered_responses, commandEffect_responses], commandEffect_pending i s,
      reserved_answer _, ?_⟩
    rw [errField_answer, valField_answer]
    exact ⟨by decide, by decide, fun _ => rfl, fun h => absurd rfl h,
      fun _ => (commandEffect_faultRegisters i s).imp_left fun h => ⟨i, hdecode, h⟩⟩

end Sys2Proof.Machine

/-! ## System commands -/

namespace Sys2Proof.Machine

/-! ### Words of a command and illegal words -/

theorem isWordOf_iff {w : Word} {i : Instr} : IsWordOf w i ↔ encode i = w := by
  rw [IsWordOf, decode_eq_ok_iff, and_self]

/-- A command's word as the number of its fields (30_encoding.md R83). -/
theorem isWordOf_wordOf (i : Instr) : IsWordOf (wordOf (encodeFields i).grp.toNat (encodeFields i).fn.toNat
    (encodeFields i).a.toNat (encodeFields i).b.toNat) i :=
  isWordOf_iff.2 (Fields.toWord_eq_wordOf _)

/-- The commands without operands (format Z, 30_encoding.md R85). -/
theorem immediateMustBeZero_of_formatZ {grp fn : Nat}
    (h : (grp, fn) ∈ [(0, 0), (0, 1), (1, 2), (5, 5), (5, 6), (5, 7), (5, 8), (5, 9), (5, 10), (5, 11), (5, 12)]) :
    ImmediateMustBeZero grp fn := by
  have hrange : grp < 16 ∧ fn < 16 := by
    simp only [List.mem_cons, Prod.mk.injEq, List.not_mem_nil, or_false] at h
    omega
  intro a b ha hb hne
  have himm : a * 4096 + b ≠ 0 := by omega
  exact (illegalWordsAreTheListedOnes grp fn a b hrange.1 hrange.2 ha hb).2
    (.inr (.inr (.inr (.inr (.inr (.inl ⟨h, himm⟩))))))

/-- The words of `RDCSR` that name no register or set a bit of `b` (30_encoding.md R88). -/
theorem illegalWord_rdcsr {a b : Nat} (ha : a < 4096) (hb : b < 4096) (h : b ≠ 0 ∨ 13 ≤ a) :
    IllegalWord (wordOf 0 2 a b) :=
  (illegalWordsAreTheListedOnes 0 2 a b (by decide) (by decide) ha hb).2
    (.inr (.inr (.inr (.inr (.inr (.inr (.inl ⟨rfl, h.symm⟩)))))))

/-! ### `NOP` -/

/-- Settles O10: `NOP` checks nothing, and writing `RES` back leaves it as it was. -/
theorem nopRule : Obligations.NopRule :=
  ⟨isWordOf_wordOf .nop, immediateMustBeZero_of_formatZ (by decide), fun _ => exec_of_pass rfl⟩

/-! ### `RESET` -/

theorem exec_reset (s : State) : exec .reset s = .next (s.resetCore.answered 0) := exec_of_pass rfl

theorem step_of_rst {s : State} {es : List HostEvent} (h : s.pending = .rst :: es) :
    step s = .next (s.setPending es).resetCore := by
  rw [step, h]

/-- A command other than `RESET` keeps a field there is, a recorded fault a recorded fault, and every sticky bit
(40_system.md R112). -/
theorem exec_clears_nothing {i : Instr} {s t : State} (hi : i ≠ .reset) (h : exec i s = .next t) :
    (s.status.fv = true → t.status.fv = true) ∧ (s.lasterr ≠ 0 → t.lasterr ≠ 0) ∧
    ∀ k, s.esticky.getLsbD k = true → t.esticky.getLsbD k = true := by
  obtain ⟨k, -, rfl⟩ | ⟨hpass, rfl⟩ := exec_cases h
  · refine ⟨id, fun _ => k.code_ne_zero, fun b hb => ?_⟩
    rw [State.faulted_esticky, BitVec.getLsbD_or, hb, Bool.true_or]
  · obtain ⟨hlasterr, hesticky⟩ := (commandEffect_faultRegisters i s).resolve_left hi
    rw [State.answered_status, State.answered_lasterr, State.answered_esticky, hlasterr, hesticky]
    refine ⟨fun hf => ?_, id, fun _ => id⟩
    obtain ⟨-, -, -, -, hfv⟩ := commandEffect_keeps_field hi hf hpass
    exact hfv

/-- Settles O11: both resets reach `resetCore`; a fault only adds to the fault registers, and an effect leaves them and a
field as they are. -/
theorem resetRule : Obligations.ResetRule := by
  refine ⟨isWordOf_wordOf .reset, immediateMustBeZero_of_formatZ (by decide), exec_reset, fun s t es hp h => ?_,
    fun i s t => exec_clears_nothing⟩
  rw [step_of_rst hp] at h
  cases h
  exact exec_reset _

/-! ### `RDCSR` -/

/-- The bits of `STATUS` as a number (10_state.md R39). -/
theorem Status.value_eq (st : Status) : st.value = resultOf
    (st.fv.toNat + 2 * st.sz.toNat + 4 * st.ok.toNat + 8 * st.tmr.toNat + 16 * st.rlm.toNat + 32 * st.fdz.toNat) := by
  obtain ⟨fv, sz, ok, tmr, rlm, fdz⟩ := st
  revert fv sz ok tmr rlm fdz
  decide

theorem Mode.setWidth_bit (mode : Mode) : mode.bit.setWidth 16 = if mode = .bch then 0 else 1 := by cases mode <;> rfl

theorem exec_rdcsr (c : Csr) (s : State) : exec (.rdcsr c) s = .next (s.answered (s.csrValue c)) := exec_of_pass rfl

theorem isWordOf_rdcsr (c : Csr) : IsWordOf (BitVec.ofNat 32 (0x02000000 + c.number.toNat * 4096)) (.rdcsr c) := by
  simpa [wordOf, encodeFields] using isWordOf_wordOf (.rdcsr c)

/-- Settles O12: `RDCSR` answers `csrValue`, which is the register zero extended; the mode and the flags are read as
numbers. -/
theorem rdcsrRule : Obligations.RdcsrRule := by
  refine ⟨isWordOf_rdcsr, fun a b => illegalWord_rdcsr, fun s => ?_⟩
  simp only [exec_rdcsr, State.csrValue, Status.value_eq, Mode.setWidth_bit, and_self]

end Sys2Proof.Machine

/-! ## Arithmetic of the field

The table product multiplies powers of α by adding their exponents, and `a ↦ α^i·a` is `i` steps of R124, which are
linear over XOR. The field laws and the shift-and-add product follow from these two facts. -/

namespace Sys2Proof.Machine

/-! ### Doubling on numbers -/

/-- A step of R124 is linear over XOR. -/
theorem doubleMod_xor (m p u v : Nat) : doubleMod m p (u ^^^ v) = doubleMod m p u ^^^ doubleMod m p v := by
  have htwo : 2 * (u ^^^ v) = 2 * u ^^^ 2 * v := by
    simpa [Nat.shiftLeft_eq, Nat.mul_comm] using (Nat.shiftLeft_xor_distrib (a := u) (b := v) (i := 1))
  rw [doubleMod, doubleMod, doubleMod, htwo, Nat.testBit_xor]
  cases (2 * u).testBit m <;> cases (2 * v).testBit m <;> simp [Nat.xor_comm, Nat.xor_left_comm]

theorem iterate_doubleMod_xor (m p i u v : Nat) :
    (doubleMod m p)^[i] (u ^^^ v) = (doubleMod m p)^[i] u ^^^ (doubleMod m p)^[i] v := by
  induction i generalizing u v with
  | zero => rfl
  | succ i ih => rw [Function.iterate_succ_apply, doubleMod_xor, ih]; rfl

@[simp] theorem doubleMod_zero (m p : Nat) : doubleMod m p 0 = 0 := by simp [doubleMod]

@[simp] theorem iterate_doubleMod_zero (m p i : Nat) : (doubleMod m p)^[i] 0 = 0 :=
  Function.iterate_fixed (doubleMod_zero m p) i

/-- The first `m` powers of α are the powers of `x`, not yet reduced. -/
theorem iterate_doubleMod_one {m i : Nat} (p : Nat) (hi : i < m) : (doubleMod m p)^[i] 1 = 2 ^ i := by
  induction i with
  | zero => rfl
  | succ i ih =>
    have hbit : (2 ^ (i + 1)).testBit m = false := by
      rw [Nat.testBit_two_pow]
      simpa using hi.ne
    rw [Function.iterate_succ_apply', ih (by omega), doubleMod, ← pow_succ', hbit]
    rfl

/-! ### Shift and add -/

/-- The sum of `f i` over the bits of `b` below `k`. -/
def bitSum (b : Nat) (f : Nat → Nat) (k : Nat) : Nat :=
  (List.range k).foldl (fun acc i => if b.testBit i then acc ^^^ f i else acc) 0

theorem bitSum_succ (b : Nat) (f : Nat → Nat) (k : Nat) :
    bitSum b f (k + 1) = if b.testBit k then bitSum b f k ^^^ f k else bitSum b f k := by
  rw [bitSum, List.range_succ, List.foldl_concat]
  rfl

theorem bitSum_congr {b k : Nat} {f g : Nat → Nat} (h : ∀ i, i < k → f i = g i) : bitSum b f k = bitSum b g k := by
  induction k with
  | zero => rfl
  | succ k ih => rw [bitSum_succ, bitSum_succ, ih fun i hi => h i (by omega), h k (by omega)]

/-- The bits of a number add up to it. -/
theorem bitSum_two_pow (b k : Nat) : bitSum b (2 ^ ·) k = b % 2 ^ k := by
  induction k with
  | zero => simp [bitSum, Nat.mod_one]
  | succ k ih =>
    apply Nat.eq_of_testBit_eq
    intro j
    rw [bitSum_succ, ih, Nat.testBit_mod_two_pow]
    obtain hj | rfl | hj := Nat.lt_trichotomy j k
    · cases b.testBit k <;>
        simp [Nat.testBit_mod_two_pow, Nat.testBit_xor, hj, hj.ne', Nat.lt_succ_of_lt hj]
    · cases hb : b.testBit j <;> simp [Nat.testBit_mod_two_pow, Nat.testBit_xor, hb]
    · cases b.testBit k <;>
        simp [Nat.testBit_mod_two_pow, Nat.testBit_xor, hj.ne, show ¬ j < k by omega,
          show ¬ j < k + 1 by omega]

/-- Steps of R124 pass through a sum. -/
theorem iterate_doubleMod_bitSum (m p i b : Nat) (f : Nat → Nat) (k : Nat) :
    (doubleMod m p)^[i] (bitSum b f k) = bitSum b (fun j => (doubleMod m p)^[i] (f j)) k := by
  induction k with
  | zero => exact iterate_doubleMod_zero m p i
  | succ k ih =>
    rw [bitSum_succ, bitSum_succ, apply_ite ((doubleMod m p)^[i]), iterate_doubleMod_xor, ih]

/-- Multiplying `α^i` by shift and add is `i` steps of R124. -/
theorem reducedProduct_alphaPower {m b : Nat} (p i : Nat) (hb : b < 2 ^ m) :
    reducedProduct m p (alphaPower m p i) b = (doubleMod m p)^[i] b := by
  have hpow : ∀ j, j < m → (doubleMod m p)^[j] (alphaPower m p i) = (doubleMod m p)^[i] (2 ^ j) := fun j hj => by
    rw [alphaPower, ← Function.iterate_add_apply, Nat.add_comm, Function.iterate_add_apply,
      iterate_doubleMod_one p hj]
  calc reducedProduct m p (alphaPower m p i) b
      = bitSum b (fun j => (doubleMod m p)^[j] (alphaPower m p i)) m := rfl
    _ = bitSum b (fun j => (doubleMod m p)^[i] (2 ^ j)) m := bitSum_congr hpow
    _ = (doubleMod m p)^[i] (bitSum b (2 ^ ·) m) := (iterate_doubleMod_bitSum m p i b _ m).symm
    _ = (doubleMod m p)^[i] b := by rw [bitSum_two_pow, Nat.mod_eq_of_lt hb]

theorem reducedProduct_zero_left (m p b : Nat) : reducedProduct m p 0 b = 0 := by
  have hzero : ∀ k, bitSum b (fun _ => 0) k = 0 := fun k => by
    induction k with
    | zero => rfl
    | succ k ih => rw [bitSum_succ, ih, Nat.xor_zero, ite_self]
  calc reducedProduct m p 0 b
      = bitSum b (fun i => (doubleMod m p)^[i] 0) m := rfl
    _ = bitSum b (fun _ => 0) m := bitSum_congr fun i _ => iterate_doubleMod_zero m p i
    _ = 0 := hzero m

/-! ### Powers of α -/

theorem alphaPower_lt {m p : Nat} (hm : 0 < m) (hp : p / 2 ^ m = 1) (i : Nat) : alphaPower m p i < 2 ^ m := by
  induction i with
  | zero => exact Nat.one_lt_two_pow hm.ne'
  | succ i ih =>
    rw [alphaPower, Function.iterate_succ_apply', ← alphaPower]
    exact doubleMod_lt hp ih

/-- The sequence of R124 on bit vectors is the sequence on numbers. -/
theorem toNat_alphaIterate {m : Nat} (hpos : 0 < m) (hm : m ≤ 12) {prim : BitVec 13} (hp : prim.toNat / 2 ^ m = 1)
    (i : Nat) : (alphaIterate m prim i).toNat = alphaPower m prim.toNat i := by
  induction i with
  | zero => rfl
  | succ i ih =>
    have hlt : (alphaIterate m prim i).toNat < 2 ^ m := ih ▸ alphaPower_lt hpos hp i
    rw [alphaIterate, Function.iterate_succ_apply', ← alphaIterate, toNat_timesAlpha hm prim hlt, ih, alphaPower,
      alphaPower, Function.iterate_succ_apply']

theorem AcceptedField.pos {m : Nat} {prim : BitVec 13} (h : AcceptedField m prim) : 0 < m :=
  Nat.lt_of_lt_of_le (by decide) h.three_le

theorem GF.mul_comm (F : GF) (a b : Cell) : F.mul a b = F.mul b a := by
  simp only [GF.mul, or_comm (a := a = 0), Nat.add_comm (F.logAt a)]

namespace State.FieldReady

variable {s : State} (h : s.FieldReady)
include h

theorem one_lt_ord : 1 < s.ord := by
  have hbound := h.accepted.order_bounds
  rw [State.ord]
  omega

theorem ord_pos : 0 < s.ord := Nat.zero_lt_of_lt h.one_lt_ord

theorem mod_ord_lt (i : Nat) : i % s.ord < s.ord := Nat.mod_lt _ h.ord_pos

/-- `alpha(i)` is `seq[i]` for every `i`: the sequence has period `ORD`. -/
theorem toNat_alpha (i : Nat) : (s.gf.alpha i).toNat = alphaPower s.m.toNat s.prim.toNat i := by
  have hacc := h.accepted
  have hmod : alphaIterate s.m.toNat s.prim (i % s.ord) = alphaIterate s.m.toNat s.prim i := by
    rw [State.ord, ← hacc.minimalPeriod_eq]
    exact Function.iterate_mod_minimalPeriod_eq
  rw [← toNat_alphaIterate hacc.pos hacc.le_twelve hacc.degree, ← hmod, ← hacc.toNat_expTable (h.mod_ord_lt i),
    ← h.expCell_eq]
  rfl

theorem alpha_ne_zero (i : Nat) : s.gf.alpha i ≠ 0 := by
  have hne := h.accepted.expTable_ne_zero (h.mod_ord_lt i)
  rwa [← h.expCell_eq] at hne

theorem isElement_alpha (i : Nat) : s.isElement (s.gf.alpha i) := by
  have hlt := h.accepted.expTable_lt (i % s.ord)
  rwa [← h.expCell_eq] at hlt

theorem logAt_alpha (i : Nat) : s.gf.logAt (s.gf.alpha i) = i % s.ord := h.logCell_expCell (h.mod_ord_lt i)

/-- Every nonzero element is a power of α, with its logarithm as the exponent. -/
theorem alpha_logAt {a : Cell} (ha : a ≠ 0) (helem : s.isElement a) : s.gf.alpha (s.gf.logAt a) = a := by
  obtain ⟨i, hi, rfl⟩ := h.exists_expCell ha helem
  change s.expCell (s.logCell (s.expCell i) % s.ord) = _
  rw [h.logCell_expCell hi, Nat.mod_eq_of_lt hi]

/-- An element is 0 or a power of α. -/
theorem eq_zero_or_alpha {a : Cell} (ha : s.isElement a) : a = 0 ∨ ∃ i, s.gf.alpha i = a := by
  by_cases hzero : a = 0
  · exact .inl hzero
  · exact .inr ⟨_, h.alpha_logAt hzero ha⟩

/-- A power of α is known by its exponent modulo `ORD`. -/
theorem alpha_eq_alpha_iff {i j : Nat} : s.gf.alpha i = s.gf.alpha j ↔ i % s.ord = j % s.ord := by
  constructor
  · intro he
    rw [← h.logAt_alpha, he, h.logAt_alpha]
  · intro he
    change s.expCell (i % s.ord) = s.expCell (j % s.ord)
    rw [he]

theorem alpha_zero : s.gf.alpha 0 = 1 := BitVec.eq_of_toNat_eq (h.toNat_alpha 0)

theorem alpha_one : s.gf.alpha 1 = 2 := by
  change s.expCell (1 % s.ord) = 2
  rw [Nat.mod_eq_of_lt h.one_lt_ord, h.expCell_zero_one.2]

theorem alpha_eq_one_iff {i : Nat} : s.gf.alpha i = 1 ↔ s.ord ∣ i := by
  rw [← h.alpha_zero, h.alpha_eq_alpha_iff, Nat.zero_mod, Nat.dvd_iff_mod_eq_zero]

theorem isElement_one : s.isElement 1 := by
  rw [← h.alpha_zero]
  exact h.isElement_alpha 0

theorem isElement_two : s.isElement 2 := by
  rw [← h.alpha_one]
  exact h.isElement_alpha 1

/-! ### The field functions on powers of α -/

theorem mul_alpha (i j : Nat) : s.gf.mul (s.gf.alpha i) (s.gf.alpha j) = s.gf.alpha (i + j) := by
  rw [GF.mul, if_neg (not_or.2 ⟨h.alpha_ne_zero i, h.alpha_ne_zero j⟩), h.logAt_alpha, h.logAt_alpha, GF.alpha,
    State.gf_ord, ← Nat.add_mod]

theorem inv_alpha (i : Nat) : s.gf.inv (s.gf.alpha i) = s.gf.alpha (s.ord - i % s.ord) := by
  rw [GF.inv, h.logAt_alpha]
  rfl

theorem quot_alpha (i j : Nat) :
    s.gf.quot (s.gf.alpha i) (s.gf.alpha j) = s.gf.alpha (i % s.ord + s.ord - j % s.ord) := by
  rw [GF.quot, if_neg (h.alpha_ne_zero i), h.logAt_alpha, h.logAt_alpha]
  rfl

theorem pow_alpha (i e : Nat) : s.gf.pow (s.gf.alpha i) e = s.gf.alpha (i * e) := by
  rw [GF.pow, if_neg (h.alpha_ne_zero i), h.logAt_alpha, State.gf_ord, Nat.mod_mul_mod]
  rfl

/-- Multiplying by `α^i` is `i` steps of R124. -/
theorem toNat_alpha_mul (i : Nat) {b : Cell} (hb : s.isElement b) :
    (s.gf.mul (s.gf.alpha i) b).toNat = (doubleMod s.m.toNat s.prim.toNat)^[i] b.toNat := by
  obtain rfl | ⟨j, rfl⟩ := h.eq_zero_or_alpha hb
  · simp
  · rw [h.mul_alpha, h.toNat_alpha, h.toNat_alpha, alphaPower, alphaPower, Function.iterate_add_apply]

/-! ### The field laws (R141) -/

theorem mul_assoc {a b c : Cell} (ha : s.isElement a) (hb : s.isElement b) (hc : s.isElement c) :
    s.gf.mul (s.gf.mul a b) c = s.gf.mul a (s.gf.mul b c) := by
  obtain rfl | ⟨i, rfl⟩ := h.eq_zero_or_alpha ha
  · simp
  obtain rfl | ⟨j, rfl⟩ := h.eq_zero_or_alpha hb
  · simp
  obtain rfl | ⟨k, rfl⟩ := h.eq_zero_or_alpha hc
  · simp
  simp only [h.mul_alpha, Nat.add_assoc]

theorem mul_one {a : Cell} (ha : s.isElement a) : s.gf.mul a 1 = a := by
  obtain rfl | ⟨i, rfl⟩ := h.eq_zero_or_alpha ha
  · exact GF.zero_mul _ _
  · rw [← h.alpha_zero, h.mul_alpha, Nat.add_zero]

theorem mul_inv_cancel {a : Cell} (ha : s.isElement a) (hne : a ≠ 0) : s.gf.mul a (s.gf.inv a) = 1 := by
  obtain ⟨i, rfl⟩ := (h.eq_zero_or_alpha ha).resolve_left hne
  rw [h.inv_alpha, h.mul_alpha, h.alpha_eq_one_iff]
  have hlt := h.mod_ord_lt i
  have hdiv := Nat.div_add_mod i s.ord
  exact ⟨i / s.ord + 1, by rw [Nat.mul_succ]; omega⟩

theorem mul_add {a b c : Cell} (ha : s.isElement a) (hb : s.isElement b) (hc : s.isElement c) :
    s.gf.mul a (gfAdd b c) = gfAdd (s.gf.mul a b) (s.gf.mul a c) := by
  obtain rfl | ⟨i, rfl⟩ := h.eq_zero_or_alpha ha
  · simp [gfAdd]
  apply BitVec.eq_of_toNat_eq
  have hbc : s.isElement (gfAdd b c) := GF.elem_gfAdd (F := s.gf) hb hc
  rw [h.toNat_alpha_mul i hbc, gfAdd, gfAdd, BitVec.toNat_xor, BitVec.toNat_xor, iterate_doubleMod_xor,
    h.toNat_alpha_mul i hb, h.toNat_alpha_mul i hc]

theorem quot_eq_mul_inv {a b : Cell} (ha : s.isElement a) (hb : s.isElement b) (hne : b ≠ 0) :
    s.gf.quot a b = s.gf.mul a (s.gf.inv b) := by
  obtain rfl | ⟨i, rfl⟩ := h.eq_zero_or_alpha ha
  · rw [GF.quot, if_pos rfl]
    exact (GF.zero_mul _ _).symm
  obtain ⟨j, rfl⟩ := (h.eq_zero_or_alpha hb).resolve_left hne
  have hlt := h.mod_ord_lt j
  rw [h.quot_alpha, h.inv_alpha, h.mul_alpha, h.alpha_eq_alpha_iff, Nat.add_sub_assoc hlt.le, Nat.mod_add_mod]

theorem pow_succ {a : Cell} (ha : s.isElement a) (e : Nat) : s.gf.pow a (e + 1) = s.gf.mul (s.gf.pow a e) a := by
  obtain rfl | ⟨i, rfl⟩ := h.eq_zero_or_alpha ha
  · rw [GF.pow, if_pos rfl, if_neg e.succ_ne_zero]
    exact (GF.mul_zero _ _).symm
  · rw [h.pow_alpha, h.pow_alpha, h.mul_alpha, Nat.mul_succ]

/-! ### Orders of elements (R131) -/

theorem pow_alpha_eq_one_iff {i e : Nat} : s.gf.pow (s.gf.alpha i) e = 1 ↔ s.ord ∣ i * e := by
  rw [h.pow_alpha, h.alpha_eq_one_iff]

theorem pow_ord {a : Cell} (ha : s.isElement a) (hne : a ≠ 0) : s.gf.pow a s.ord = 1 := by
  obtain ⟨i, rfl⟩ := (h.eq_zero_or_alpha ha).resolve_left hne
  exact h.pow_alpha_eq_one_iff.2 (Nat.dvd_mul_left _ _)

/-- A power of α is primitive exactly when its exponent is coprime to `ORD`. -/
theorem isLeast_pow_alpha_iff {i : Nat} :
    IsLeast { e : Nat | 1 ≤ e ∧ s.gf.pow (s.gf.alpha i) e = 1 } s.ord ↔ Nat.Coprime i s.ord := by
  have hpos := h.ord_pos
  constructor
  · rintro ⟨-, hleast⟩
    have hgcd : 0 < i.gcd s.ord := Nat.gcd_pos_of_pos_right i hpos
    have hdvd : s.ord ∣ i * (s.ord / i.gcd s.ord) := by
      rw [← Nat.mul_div_assoc _ (Nat.gcd_dvd_right i s.ord), Nat.mul_comm,
        Nat.mul_div_assoc _ (Nat.gcd_dvd_left i s.ord)]
      exact Nat.dvd_mul_right _ _
    have hle : s.ord ≤ s.ord / i.gcd s.ord := hleast
      ⟨Nat.div_pos (Nat.le_of_dvd hpos (Nat.gcd_dvd_right i s.ord)) hgcd, h.pow_alpha_eq_one_iff.2 hdvd⟩
    by_contra hne
    exact absurd hle (Nat.not_le.2 (Nat.div_lt_self hpos (by rw [Nat.Coprime] at hne; omega)))
  · intro hcop
    refine ⟨⟨hpos, h.pow_alpha_eq_one_iff.2 (Nat.dvd_mul_left _ _)⟩, fun e ⟨he, hone⟩ => ?_⟩
    exact Nat.le_of_dvd he (hcop.symm.dvd_of_dvd_mul_left (h.pow_alpha_eq_one_iff.1 hone))

/-- α is primitive in every field that `FINIT` accepts (41_field.md R137). -/
theorem isLeast_pow_two : IsLeast { e : Nat | 1 ≤ e ∧ s.gf.pow 2 e = 1 } s.ord := by
  rw [← h.alpha_one, h.isLeast_pow_alpha_iff]
  exact Nat.coprime_one_left _

end State.FieldReady

/-- Settles O22: on powers of α the laws are laws of exponents modulo `ORD`; only distributivity needs the linearity of
R124's step. -/
theorem fieldLaws : Obligations.FieldLaws := by
  intro s a b c hinv hf ha hb hc
  have h := hinv.fieldReady hf
  refine ⟨s.gf.mul_comm a b, h.mul_assoc ha hb hc, BitVec.xor_zero, h.mul_one ha, BitVec.xor_self,
    h.mul_inv_cancel ha, h.mul_add ha hb hc, h.isLeast_pow_two, h.quot_eq_mul_inv ha hb, h.pow_succ ha, h.pow_ord ha,
    fun hne => ?_⟩
  rw [← h.alpha_logAt hne ha, h.isLeast_pow_alpha_iff, h.alpha_logAt hne ha]
  rfl

/-- Settles O23: both products are `i` steps of R124 from `b` when the other factor is `α^i`. -/
theorem mulIsReducedProduct : Obligations.MulIsReducedProduct := by
  intro s a b hinv hf ha hb
  have h := hinv.fieldReady hf
  refine ⟨rfl, ?_⟩
  obtain rfl | ⟨i, rfl⟩ := h.eq_zero_or_alpha ha
  · simp [reducedProduct_zero_left]
  · rw [h.toNat_alpha_mul i hb, h.toNat_alpha, reducedProduct_alphaPower _ i hb]

end Sys2Proof.Machine

/-! ## The commands of the field engine -/

namespace Sys2Proof.Machine

/-! ### Words of the field engine's commands -/

/-- The commands that use one field (format A, 30_encoding.md R85). -/
theorem secondFieldMustBeZero_of_formatA {grp fn : Nat}
    (h : (grp, fn) ∈ [(1, 6), (1, 8), (1, 9), (1, 10), (5, 3), (5, 4)]) : SecondFieldMustBeZero grp fn := by
  have hrange : grp < 16 ∧ fn < 16 := by
    simp only [List.mem_cons, Prod.mk.injEq, List.not_mem_nil, or_false] at h
    omega
  intro a b ha hb hne
  exact (illegalWordsAreTheListedOnes grp fn a b hrange.1 hrange.2 ha hb).2
    (.inr (.inr (.inr (.inr (.inr (.inr (.inr (.inr (.inl ⟨h, hne⟩)))))))))

section OperandWords

variable {i : Instr} {grp fn : BitVec 4} {opcode : Nat} (hop : grp.toNat * 2 ^ 28 + fn.toNat * 2 ^ 24 = opcode)
include hop

/-- The word of a command with two operands (format AB, 30_encoding.md R85). -/
theorem isWordOf_of_operands {a b : Cell} (h : encodeFields i = ⟨grp, fn, a, b⟩) :
    IsWordOf (BitVec.ofNat 32 (opcode + a.toNat * 4096 + b.toNat)) i := by
  have hword := isWordOf_wordOf i
  rwa [h, wordOf, hop] at hword

/-- The word of a command with one operand (format A, 30_encoding.md R85). -/
theorem isWordOf_of_operand {a : Cell} (h : encodeFields i = ⟨grp, fn, a, 0⟩) :
    IsWordOf (BitVec.ofNat 32 (opcode + a.toNat * 4096)) i := by
  have hword := isWordOf_of_operands hop h
  rwa [show (0 : Cell).toNat = 0 from rfl, Nat.add_zero] at hword

/-- The word of a command whose operand is the whole immediate (30_encoding.md R83). -/
theorem isWordOf_of_immediate {imm : BitVec 24} (h : encodeFields i = immFields grp fn imm) :
    IsWordOf (BitVec.ofNat 32 (opcode + imm.toNat)) i := by
  have himm : imm.toNat = (immFields grp fn imm).a.toNat * 4096 + (immFields grp fn imm).b.toNat := by
    rw [← Fields.toNat_imm, immFields_imm]
  rw [himm, ← Nat.add_assoc]
  exact isWordOf_of_operands hop h

end OperandWords

theorem isWordOf_fsetm (m : BitVec 24) : IsWordOf (BitVec.ofNat 32 (0x10000000 + m.toNat)) (.fsetm m) :=
  isWordOf_of_immediate (grp := 1) (fn := 0) rfl rfl

theorem isWordOf_fsetp (p : BitVec 13) : IsWordOf (BitVec.ofNat 32 (0x11000000 + p.toNat)) (.fsetp p) := by
  have hp : (p.setWidth 24).toNat = p.toNat := BitVec.toNat_setWidth_of_le (by decide)
  rw [← hp]
  exact isWordOf_of_immediate (grp := 1) (fn := 1) rfl rfl

/-- The polynomials that do not fit in 13 bits (30_encoding.md R97). -/
theorem illegalWord_fsetp {a b : Nat} (ha : a < 4096) (hb : b < 4096) (h : 8192 ≤ a * 4096 + b) :
    IllegalWord (wordOf 1 1 a b) :=
  (illegalWordsAreTheListedOnes 1 1 a b (by decide) (by decide) ha hb).2
    (.inr (.inr (.inr (.inr (.inr (.inr (.inr (.inl ⟨rfl, h⟩))))))))

/-! ### `FINIT` -/

/-- The converse of `AcceptedField.iterate_order`. -/
theorem alphaHasFullOrder_of_iterate {m : Nat} (hm : 0 < m) {prim : BitVec 13}
    (hfirst : ∀ i, 1 ≤ i → i < 2 ^ m - 1 → alphaIterate m prim i ≠ 1) (hlast : alphaIterate m prim (2 ^ m - 1) = 1) :
    alphaHasFullOrder m prim = true := by
  rw [alphaHasFullOrder, alphaSeq_eq hm]
  simp only [List.dropLast_concat, List.getLast?_concat, Bool.and_eq_true, List.all_map, List.all_eq_true,
    List.mem_range, Function.comp_apply, bne_iff_ne, beq_iff_eq, Option.some.injEq]
  exact ⟨fun i hi => hfirst _ (by omega) (by omega), hlast⟩

/-- R125's checks as `FINIT` makes them are the spec's conditions on numbers. -/
theorem fieldAccepted_iff {m : Nat} {prim : BitVec 13} : FieldAccepted m prim.toNat ↔ AcceptedField m prim := by
  have hone : ∀ i, 0 < m → m ≤ 12 → prim.toNat / 2 ^ m = 1 →
      (alphaIterate m prim i = 1 ↔ alphaPower m prim.toNat i = 1) := fun i hpos hm hp => by
    rw [← toNat_alphaIterate hpos hm hp, BitVec.toNat_eq]
    rfl
  constructor
  · rintro ⟨hlow, hhigh, hdeg, hfirst, hlast⟩
    have hpos : 0 < m := by omega
    refine ⟨hlow, hhigh, hdeg, alphaHasFullOrder_of_iterate hpos (fun i hi hlt => ?_) ?_⟩
    · exact mt (hone i hpos hhigh hdeg).1 (hfirst i hi hlt)
    · exact (hone _ hpos hhigh hdeg).2 hlast
  · intro h
    obtain ⟨hlast, hfirst⟩ := h.iterate_order
    refine ⟨h.three_le, h.le_twelve, h.degree, fun i hi hlt => ?_, ?_⟩
    · exact mt (hone i h.pos h.le_twelve h.degree).2 (hfirst i hi hlt)
    · exact (hone _ h.pos h.le_twelve h.degree).1 hlast

/-- A polynomial without constant term never leads back to 1: every value after the first is even. -/
theorem not_fieldAccepted_of_even {m p : Nat} (hp : p % 2 = 0) : ¬FieldAccepted m p := by
  rintro ⟨hlow, -, -, -, hlast⟩
  have heven : ∀ v, doubleMod m p v % 2 = 0 := fun v => by
    rw [doubleMod]
    split
    · rw [Nat.xor_mod_two_eq]
      omega
    · omega
  have hpow := eight_le_pow hlow
  obtain ⟨k, hk⟩ : ∃ k, 2 ^ m - 1 = k + 1 := ⟨2 ^ m - 2, by omega⟩
  rw [hk, alphaPower, Function.iterate_succ_apply'] at hlast
  have h := heven ((doubleMod m p)^[k] 1)
  omega

/-- A power of α that is 1 before `ORD` (R125 check 5). -/
theorem not_fieldAccepted_of_alphaPower {m p i : Nat} (hi : 1 ≤ i) (hlt : i < 2 ^ m - 1) (hone : alphaPower m p i = 1) :
    ¬FieldAccepted m p := by
  rintro ⟨-, -, -, hfirst, -⟩
  exact hfirst i hi hlt hone

/-- R123's polynomials pass, by running the sequence of R124. -/
theorem fieldAccepted_defaultPolys {d : Nat × BitVec 13} (hd : d ∈ defaultPolys) : FieldAccepted d.1 d.2.toNat := by
  have hrun : ∀ d ∈ defaultPolys, 3 ≤ d.1 ∧ d.1 ≤ 12 ∧ d.2.toNat / 2 ^ d.1 = 1 ∧ alphaHasFullOrder d.1 d.2 = true := by
    decide +kernel
  obtain ⟨hlow, hhigh, hdeg, horder⟩ := hrun d hd
  exact fieldAccepted_iff.2 ⟨hlow, hhigh, hdeg, horder⟩

section Finit

variable {s : State} (hf : s.status.fv = false)
include hf

theorem firstFailing_finit_eq_none_iff :
    firstFailing (commandChecks .finit s) = none ↔ FieldAccepted s.m.toNat s.prim.toNat := by
  rw [firstFailing_eq_none_iff, fieldAccepted_iff]
  simp only [commandChecks, State.needUnlocked, hf, degreeIs, List.forall_mem_cons, Bool.or_eq_false_iff,
    decide_eq_false_iff_not, Nat.not_lt, Bool.not_eq_false', beq_iff_eq, true_and]
  exact ⟨fun ⟨⟨hlow, hhigh⟩, hdeg, horder, _⟩ => ⟨hlow, hhigh, hdeg, horder⟩,
    fun h => ⟨⟨h.three_le, h.le_twelve⟩, h.degree, h.fullOrder, List.forall_mem_nil _⟩⟩

/-- Without a field every check of `FINIT` that can fail is for the parameters. -/
theorem exec_finit_of_not_accepted (hacc : ¬FieldAccepted s.m.toNat s.prim.toNat) :
    exec .finit s = .next (s.faulted 1) := by
  cases hfail : firstFailing (commandChecks .finit s) with
  | none => exact absurd ((firstFailing_finit_eq_none_iff hf).1 hfail) hacc
  | some k =>
    have hcode : k.code = 9 ∨ k.code = 1 := by simpa [mayRaise] using failing_code_mem_mayRaise hfail
    obtain hlocked | hparam := hcode
    · obtain rfl : k = .locked := FaultKind.code_injective hlocked
      exact absurd (locked_of_firstFailing hfail).1 (by simp [hf])
    · rw [exec_of_fail hfail, hparam]

theorem exec_finit_of_accepted (hacc : FieldAccepted s.m.toNat s.prim.toNat) :
    exec .finit s = .next (s.buildField.answered 0) :=
  exec_of_pass ((firstFailing_finit_eq_none_iff hf).2 hacc)

end Finit

theorem logTable_zero (m : Nat) (exp : List Cell) : (logTable m exp).getD 0 0 = 0 := by
  rw [logTable, List.getD_eq_getElem?_getD, List.getElem?_set, if_pos rfl]
  split <;> rfl

/-- Settles O15: `FINIT`'s checks are `FieldAccepted`, and the tables it then builds are one period of R124's sequence
and its inverse. -/
theorem finitRule : Obligations.FinitRule := by
  refine ⟨isWordOf_wordOf .finit, immediateMustBeZero_of_formatZ (by decide),
    fun s hf => (fieldIsLocked.1 s 0 0 hf).2.2, fun s hf => exec_finit_of_not_accepted hf, fun s hf hacc => ?_,
    fun d => fieldAccepted_defaultPolys, fun m p => not_fieldAccepted_of_even, by decide +kernel,
    not_fieldAccepted_of_alphaPower (i := 51) (by decide) (by decide) (by decide +kernel)⟩
  have h := fieldAccepted_iff.1 hacc
  refine ⟨expTable s.m.toNat s.prim, logTable s.m.toNat (expTable s.m.toNat s.prim), exec_finit_of_accepted hf hacc,
    alphaPower_lt h.pos h.degree, fun i hi => ?_, fun i hi => h.logTable_expTable hi, logTable_zero _ _⟩
  rw [h.toNat_expTable hi, toNat_alphaIterate h.pos h.le_twelve h.degree]

/-! ### `FSETM` and `FSETP` -/

theorem State.after_of_exec {i : Instr} {s t : State} (h : exec i s = .next t) : s.after i = t := by
  rw [State.after, h]

/-- R123's rows are in range, and `defPoly` gives them. -/
theorem defPoly_of_mem {m : Nat} {p : BitVec 13} (h : (m, p) ∈ defaultPolys) : 3 ≤ m ∧ m ≤ 12 ∧ defPoly m = p := by
  have hrows : ∀ d ∈ defaultPolys, 3 ≤ d.1 ∧ d.1 ≤ 12 ∧ defPoly d.1 = d.2 := by decide
  exact hrows _ h

section Setters

variable {s : State} (hf : s.status.fv = false)
include hf

theorem exec_fsetm {m : BitVec 24} (hlow : 3 ≤ m.toNat) (hhigh : m.toNat ≤ 12) :
    exec (.fsetm m) s = .next ((s.setField (BitVec.ofNat 4 m.toNat) (defPoly m.toNat)).answered 0) := by
  have hpass : firstFailing (commandChecks (.fsetm m) s) = none := by
    simp [commandChecks, State.needUnlocked, hf, hlow, hhigh]
  have hm : m.setWidth 4 = BitVec.ofNat 4 m.toNat := by simp
  rw [exec_of_pass hpass, ← hm]
  rfl

theorem exec_fsetm_outOfRange {m : BitVec 24} (hm : m.toNat < 3 ∨ 12 < m.toNat) :
    exec (.fsetm m) s = .next (s.faulted 1) :=
  exec_of_fail (k := .invalidParameters) (by simpa [commandChecks, State.needUnlocked, hf, imp_iff_not_or] using hm)

theorem exec_fsetp (p : BitVec 13) : exec (.fsetp p) s = .next ((s.setPrim p).answered 0) :=
  exec_of_pass (i := .fsetp p) (by simp [commandChecks, State.needUnlocked, hf])

end Setters

/-- Settles O14: `FSETM` and `FSETP` check the lock, `FSETM` the range too, and 9 and 11 have no row in R123's table. -/
theorem fieldSettersRule : Obligations.FieldSettersRule := by
  refine ⟨isWordOf_fsetm, fun m s hf => (fieldIsLocked.1 s m 0 hf).1, fun m s hf hm => exec_fsetm_outOfRange hf hm,
    fun m p s hf hrow => ?_, fun m s hf hm => ?_, isWordOf_fsetp, fun a b => illegalWord_fsetp,
    fun p s hf => (fieldIsLocked.1 s 0 p hf).2.1, fun p s hf => exec_fsetp hf p⟩
  · obtain ⟨hlow, hhigh, rfl⟩ := defPoly_of_mem hrow
    exact exec_fsetm hf hlow hhigh
  · have hexec := exec_fsetm hf (m := m) (by omega) (by omega)
    have hzero : defPoly m.toNat = 0 := by
      obtain hm | hm := hm <;> rw [hm] <;> rfl
    rw [hzero] at hexec
    refine ⟨hexec, ?_⟩
    rw [State.after_of_exec hexec]
    exact exec_finit_of_not_accepted hf (not_fieldAccepted_of_even rfl)

end Sys2Proof.Machine

/-! ## Scalar arithmetic -/

namespace Sys2Proof.Machine

/-! ### The common checks (41_field.md R138) -/

/-- Without a field (60_exceptions.md R246). -/
theorem exec_of_needsField {i : Instr} {s : State} (hi : needsField i = true) (hf : s.status.fv = false) :
    exec i s = .next (s.faulted 5) :=
  exec_of_fail (firstFailing_of_needsField hi hf)

/-- A command that answers a cell and writes nothing else. -/
theorem exec_of_cell {i : Instr} {s : State} {c : Cell} (hpass : firstFailing (commandChecks i s) = none)
    (heffect : commandEffect i s = s) (hvalue : commandValue i s = cellValue c) :
    exec i s = .next (s.answered (resultOf c.toNat)) := by
  rw [exec_of_pass hpass, heffect, hvalue, cellValue_eq]

section Checks

variable {s : State} (cs : List (Bool × FaultKind))

theorem firstFailing_needField (hf : s.status.fv = true) : firstFailing (s.needField :: cs) = firstFailing cs := by
  simp [State.needField, hf]

theorem firstFailing_needElement {a : Cell} (ha : s.isElement a) :
    firstFailing (s.needElement a :: cs) = firstFailing cs := by
  simp [State.needElement, (s.outOfField_eq_false_iff a).2 ha]

/-- An operand that is no element (60_exceptions.md R248). -/
theorem firstFailing_needElement_of_not {a : Cell} (ha : ¬s.isElement a) :
    firstFailing (s.needElement a :: cs) = some .operandRange := by
  simp [State.needElement, (s.outOfField_eq_true_iff a).2 ha]

theorem firstFailing_needElements_of_not {a b : Cell} (h : ¬s.isElement a ∨ ¬s.isElement b) :
    firstFailing (s.needElement a :: s.needElement b :: cs) = some .operandRange := by
  by_cases ha : s.isElement a
  · rw [firstFailing_needElement _ ha, firstFailing_needElement_of_not _ (h.resolve_left (not_not_intro ha))]
  · exact firstFailing_needElement_of_not _ ha

end Checks

theorem State.isElement_zero (s : State) : s.isElement 0 := s.gf.elem_zero

/-! ### What each command answers, and its faults -/

section Answers

variable {s : State} (hf : s.status.fv = true)
include hf

section Operands

variable {a : Cell} (ha : s.isElement a)
include ha

theorem exec_fpow (e : Cell) : exec (.fpow a e) s = .next (s.answered (resultOf (s.gf.pow a e.toNat).toNat)) :=
  exec_of_cell ((firstFailing_needField _ hf).trans (firstFailing_needElement _ ha)) rfl rfl

theorem exec_fisprim : exec (.fisprim a) s = .next (s.answered (flagValue (s.gf.isPrimitive a))) :=
  exec_of_pass (i := .fisprim a) ((firstFailing_needField _ hf).trans (firstFailing_needElement _ ha))

/-- One operand, tested for zero after its range (R129, R140). -/
theorem firstFailing_nonzero (k : FaultKind) :
    firstFailing [s.needField, s.needElement a, (a == 0, k)] = if a = 0 then some k else none := by
  rw [firstFailing_needField _ hf, firstFailing_needElement _ ha]
  simp

theorem exec_finv (hne : a ≠ 0) : exec (.finv a) s = .next (s.answered (resultOf (s.gf.inv a).toNat)) :=
  exec_of_cell ((firstFailing_nonzero hf ha .divideByZero).trans (if_neg hne)) rfl rfl

theorem exec_flog (hne : a ≠ 0) : exec (.flog a) s = .next (s.answered (resultOf (s.logCell a))) :=
  exec_of_pass (i := .flog a) ((firstFailing_nonzero hf ha .logOfZero).trans (if_neg hne))

variable {b : Cell} (hb : s.isElement b)
include hb

theorem firstFailing_needElements (cs : List (Bool × FaultKind)) :
    firstFailing (s.needField :: s.needElement a :: s.needElement b :: cs) = firstFailing cs := by
  rw [firstFailing_needField _ hf, firstFailing_needElement _ ha, firstFailing_needElement _ hb]

theorem exec_fadd : exec (.fadd a b) s = .next (s.answered (resultOf (gfAdd a b).toNat)) :=
  exec_of_cell (firstFailing_needElements hf ha hb []) rfl rfl

theorem exec_fmul : exec (.fmul a b) s = .next (s.answered (resultOf (s.gf.mul a b).toNat)) :=
  exec_of_cell (firstFailing_needElements hf ha hb []) rfl rfl

theorem exec_fdiv (hne : b ≠ 0) : exec (.fdiv a b) s = .next (s.answered (resultOf (s.gf.quot a b).toNat)) :=
  exec_of_cell ((firstFailing_needElements hf ha hb _).trans (if_neg (mt beq_iff_eq.1 hne))) rfl rfl

end Operands

/-- The divisor is tested before the dividend is looked at (R128). -/
theorem exec_fdiv_zero {a : Cell} (ha : s.isElement a) : exec (.fdiv a 0) s = .next (s.faulted 2) :=
  exec_of_fail (k := .divideByZero) (firstFailing_needElements hf ha s.isElement_zero _)

theorem exec_finv_zero : exec (.finv 0) s = .next (s.faulted 2) :=
  exec_of_fail (i := .finv 0) (firstFailing_nonzero hf s.isElement_zero .divideByZero)

theorem exec_flog_zero : exec (.flog 0) s = .next (s.faulted 8) :=
  exec_of_fail (i := .flog 0) (firstFailing_nonzero hf s.isElement_zero .logOfZero)

theorem exec_fexp (i : Cell) : exec (.fexp i) s = .next (s.answered (resultOf (s.gf.alpha i.toNat).toNat)) :=
  exec_of_cell (firstFailing_needField [] hf) rfl rfl

/-- A command whose first operand is checked right after the field. -/
theorem exec_of_not_element {i : Instr} {a : Cell} {cs : List (Bool × FaultKind)} (ha : ¬s.isElement a)
    (hi : commandChecks i s = s.needField :: s.needElement a :: cs) : exec i s = .next (s.faulted 6) :=
  exec_of_fail (k := .operandRange) (by rw [hi, firstFailing_needField _ hf, firstFailing_needElement_of_not _ ha])

/-- A command whose two operands are checked right after the field. -/
theorem exec_of_not_elements {i : Instr} {a b : Cell} {cs : List (Bool × FaultKind)}
    (h : ¬s.isElement a ∨ ¬s.isElement b)
    (hi : commandChecks i s = s.needField :: s.needElement a :: s.needElement b :: cs) :
    exec i s = .next (s.faulted 6) :=
  exec_of_fail (k := .operandRange) (by rw [hi, firstFailing_needField _ hf, firstFailing_needElements_of_not _ h])

end Answers

/-- A quotient of an element by itself. -/
theorem State.FieldReady.quot_self {s : State} (h : s.FieldReady) {a : Cell} (ha : s.isElement a) (hne : a ≠ 0) :
    s.gf.quot a a = 1 := by
  rw [h.quot_eq_mul_inv ha ha hne, h.mul_inv_cancel ha hne]

theorem State.FieldReady.inv_one {s : State} (h : s.FieldReady) : s.gf.inv 1 = 1 := by
  rw [← h.alpha_zero, h.inv_alpha, h.alpha_eq_alpha_iff, Nat.zero_mod, Nat.sub_zero, Nat.mod_self]

/-! ### The statements -/

/-- Settles O16: one check list for both, and the corner cases by the field laws. -/
theorem faddFmulRule : Obligations.FaddFmulRule := by
  refine ⟨fun a b => ⟨isWordOf_of_operands (grp := 1) (fn := 3) rfl rfl,
      isWordOf_of_operands (grp := 1) (fn := 4) rfl rfl⟩,
    fun a b s hf => ⟨exec_of_needsField rfl hf, exec_of_needsField rfl hf⟩,
    fun a b s hf h => ⟨exec_of_not_elements hf h rfl, exec_of_not_elements hf h rfl⟩,
    fun a b s hf ha hb => ⟨exec_fadd hf ha hb, exec_fmul hf ha hb⟩, fun a s hinv hf ha => ?_⟩
  have h := hinv.fieldReady hf
  rw [exec_fadd hf ha ha, exec_fadd hf ha s.isElement_zero, exec_fmul hf ha h.isElement_one, h.mul_one ha, gfAdd, gfAdd,
    BitVec.xor_self, show a ^^^ 0 = a from BitVec.xor_zero]
  exact ⟨rfl, rfl, rfl⟩

/-- Settles O17: the test for a zero divisor is the last check, and no check looks at the dividend's value. -/
theorem fdivFinvRule : Obligations.FdivFinvRule := by
  refine ⟨fun a b => ⟨isWordOf_of_operands (grp := 1) (fn := 5) rfl rfl,
      isWordOf_of_operand (grp := 1) (fn := 6) rfl rfl⟩,
    secondFieldMustBeZero_of_formatA (by decide),
    fun a b s hf => ⟨exec_of_needsField rfl hf, exec_of_needsField rfl hf⟩,
    fun a b s hf h => exec_of_not_elements hf h rfl, fun a s hf ha => exec_of_not_element hf ha rfl,
    fun a s hf ha => ⟨exec_fdiv_zero hf ha, exec_finv_zero hf⟩, fun a b s hf ha hb hne => exec_fdiv hf ha hb hne,
    fun a s hf ha hne => exec_finv hf ha hne, fun a s hinv hf ha hne => ?_⟩
  have h := hinv.fieldReady hf
  rw [exec_fdiv hf ha ha hne, exec_finv hf h.isElement_one (by decide), h.quot_self ha hne, h.inv_one]
  exact ⟨rfl, rfl⟩

/-- Exponents that are equal modulo `ORD` give equal powers (R130). -/
theorem GF.pow_congr {F : GF} {a : Cell} (ha : a ≠ 0) {e e' : Nat} (h : e % F.ord = e' % F.ord) :
    F.pow a e = F.pow a e' := by
  rw [GF.pow, GF.pow, if_neg ha, if_neg ha, Nat.mul_mod, h, ← Nat.mul_mod]

theorem State.FieldReady.pow_zero {s : State} (h : s.FieldReady) (a : Cell) : s.gf.pow a 0 = 1 := by
  rw [GF.pow, Nat.mul_zero]
  split
  · rfl
  · exact h.alpha_zero

theorem exec_fpow_congr {a e e' : Cell} (ha : a ≠ 0) {s : State} (h : e.toNat % s.ord = e'.toNat % s.ord) :
    exec (.fpow a e) s = exec (.fpow a e') s := by
  have hpow : s.gf.pow a e.toNat = s.gf.pow a e'.toNat := GF.pow_congr ha h
  cases hfail : firstFailing (commandChecks (.fpow a e) s) with
  | none =>
    rw [exec_of_pass hfail, exec_of_pass (i := .fpow a e') hfail]
    exact congrArg (fun c => Host.Outcome.next (s.answered (cellValue c))) hpow
  | some k => rw [exec_of_fail hfail, exec_of_fail (i := .fpow a e') hfail]

/-- Settles O18: the exponent and the index enter only modulo `ORD`. -/
theorem fpowFexpRule : Obligations.FpowFexpRule := by
  refine ⟨fun a e => ⟨isWordOf_of_operands (grp := 1) (fn := 7) rfl rfl,
      isWordOf_of_operand (grp := 1) (fn := 9) rfl rfl⟩,
    secondFieldMustBeZero_of_formatA (by decide),
    fun a e s hf => ⟨exec_of_needsField rfl hf, exec_of_needsField rfl hf⟩,
    fun a e s hf ha => exec_of_not_element hf ha rfl, fun a e s hf ha => ?_, fun i s hf => exec_fexp hf i,
    fun a e e' s ha he => exec_fpow_congr ha he, fun a i s hinv hf ha hi => ?_⟩
  · rw [exec_fpow hf ha, GF.pow]
    simp only [BitVec.toNat_eq]
    rfl
  · have h := hinv.fieldReady hf
    have hord : s.gf.alpha i.toNat = 1 := h.alpha_eq_one_iff.2 (hi ▸ Nat.dvd_refl _)
    rw [exec_fpow hf ha, exec_fexp hf, exec_fexp hf, hord, show (0 : Cell).toNat = 0 from rfl,
      h.pow_zero, h.alpha_zero]
    exact ⟨rfl, rfl, rfl⟩

/-- R131 on any state: `ORD` is positive unless the only element is 0. -/
theorem State.isPrimitive_iff {s : State} {a : Cell} (ha : s.isElement a) :
    s.gf.isPrimitive a = true ↔ a ≠ 0 ∧ IsLeast { e : Nat | 1 ≤ e ∧ s.gf.pow a e = 1 } s.ord := by
  simp only [GF.isPrimitive, State.gf_ord, Bool.and_eq_true, bne_iff_ne, beq_iff_eq, List.all_eq_true, List.mem_range,
    Bool.or_eq_true, and_assoc]
  refine and_congr_right fun hne => ⟨fun ⟨hone, hfirst⟩ => ⟨⟨?_, hone⟩, fun e ⟨he, heone⟩ => ?_⟩,
    fun ⟨⟨_, hone⟩, hleast⟩ => ⟨hone, ?_⟩⟩
  · have hpos : 0 < a.toNat := Nat.pos_of_ne_zero fun hz => hne (BitVec.eq_of_toNat_eq hz)
    rw [State.isElement] at ha
    rw [State.ord]
    omega
  · by_contra hlt
    obtain hzero | hpow := hfirst e (Nat.lt_of_not_le hlt)
    · omega
    · exact hpow heone
  · intro e hlt
    by_contra hc
    obtain ⟨hzero, hpow⟩ := not_or.1 hc
    exact absurd (hleast ⟨Nat.pos_of_ne_zero hzero, not_not.1 hpow⟩) (Nat.not_le.2 hlt)

section Fisprim

variable {s : State} (hf : s.status.fv = true) {a : Cell} (ha : s.isElement a)
include hf ha

theorem exec_fisprim_of_primitive (h : a ≠ 0 ∧ IsLeast { e : Nat | 1 ≤ e ∧ s.gf.pow a e = 1 } s.ord) :
    exec (.fisprim a) s = .next (s.answered 1) := by
  rw [exec_fisprim hf ha, (State.isPrimitive_iff ha).2 h]
  rfl

theorem exec_fisprim_of_not_primitive (h : ¬(a ≠ 0 ∧ IsLeast { e : Nat | 1 ≤ e ∧ s.gf.pow a e = 1 } s.ord)) :
    exec (.fisprim a) s = .next (s.answered 0) := by
  rw [exec_fisprim hf ha, Bool.eq_false_iff.2 (mt (State.isPrimitive_iff ha).1 h)]
  rfl

end Fisprim

/-- 1 returns to 1 at once, which is not `ORD`. -/
theorem State.FieldReady.not_isLeast_pow_one {s : State} (h : s.FieldReady) :
    ¬IsLeast { e : Nat | 1 ≤ e ∧ s.gf.pow 1 e = 1 } s.ord := by
  have hiff := h.isLeast_pow_alpha_iff (i := 0)
  rw [h.alpha_zero, Nat.coprime_zero_left] at hiff
  exact mt hiff.1 h.one_lt_ord.ne'

/-- Settles O19: the test is R131's definition, and α, 1 and 0 are told apart by their orders. -/
theorem fisprimRule : Obligations.FisprimRule := by
  refine ⟨fun a => isWordOf_of_operand (grp := 1) (fn := 8) rfl rfl,
    secondFieldMustBeZero_of_formatA (by decide), fun a s hf => exec_of_needsField rfl hf,
    fun a s hf ha => exec_of_not_element hf ha rfl,
    fun a s hf ha => ⟨exec_fisprim_of_primitive hf ha, exec_fisprim_of_not_primitive hf ha⟩, fun s hinv hf => ?_⟩
  have h := hinv.fieldReady hf
  exact ⟨exec_fisprim_of_primitive hf h.isElement_two ⟨by decide, h.isLeast_pow_two⟩,
    exec_fisprim_of_not_primitive hf h.isElement_one fun hprim => h.not_isLeast_pow_one hprim.2,
    exec_fisprim_of_not_primitive hf s.isElement_zero fun hprim => hprim.1 rfl⟩

/-- Settles O20: the test for 0 is the last check, and 1 is `α^0`. -/
theorem flogRule : Obligations.FlogRule := by
  refine ⟨fun a => isWordOf_of_operand (grp := 1) (fn := 10) rfl rfl,
    secondFieldMustBeZero_of_formatA (by decide), fun a s hf => exec_of_needsField rfl hf,
    fun a s hf ha => exec_of_not_element hf ha rfl, fun s hf => exec_flog_zero hf,
    fun a s hf ha hne => exec_flog hf ha hne, fun s hinv hf => ?_⟩
  have h := hinv.fieldReady hf
  have hlog : s.logCell 1 = 0 := by
    rw [← h.alpha_zero]
    exact (h.logAt_alpha 0).trans (Nat.zero_mod _)
  rw [exec_flog hf h.isElement_one (by decide), hlog]
  rfl

end Sys2Proof.Machine

/-! ## Polynomials over the field

Evaluation, product and division of the lists of elements, by the field laws. -/

namespace Sys2Proof.Machine

/-! ### Sums of cells -/

theorem xorSum_eq_zero {n : Nat} {f : Nat → Cell} (h : ∀ i, i < n → f i = 0) : xorSum n f = 0 :=
  (xorSum_congr h).trans (xorSum_zero_fun n)

/-- A sum with one term that is not 0. -/
theorem xorSum_eq_single {n k : Nat} {f : Nat → Cell} (hk : k < n) (h : ∀ i, i < n → i ≠ k → f i = 0) :
    xorSum n f = f k := by
  induction n with
  | zero => omega
  | succ n ih =>
    rw [xorSum]
    obtain rfl | hne := eq_or_ne k n
    · rw [xorSum_eq_zero fun i hi => h i (by omega) (by omega)]
      exact BitVec.zero_xor
    · rw [ih (by omega) fun i hi => h i (by omega), h n (by omega) hne.symm]
      exact BitVec.xor_zero

/-! ### The field laws, in the form sums use -/

namespace State.FieldReady

variable {s : State} (h : s.FieldReady)
include h

theorem mul_xor {a b c : Cell} (ha : s.isElement a) (hb : s.isElement b) (hc : s.isElement c) :
    s.gf.mul a (b ^^^ c) = s.gf.mul a b ^^^ s.gf.mul a c := h.mul_add ha hb hc

theorem xor_mul {a b c : Cell} (ha : s.isElement a) (hb : s.isElement b) (hc : s.isElement c) :
    s.gf.mul (a ^^^ b) c = s.gf.mul a c ^^^ s.gf.mul b c := by
  rw [GF.mul_comm, h.mul_xor hc ha hb, GF.mul_comm _ c, GF.mul_comm _ c]

theorem xorSum_mul {f : Nat → Cell} (hf : ∀ i, s.isElement (f i)) {a : Cell} (ha : s.isElement a) (n : Nat) :
    s.gf.mul (xorSum n f) a = xorSum n fun i => s.gf.mul (f i) a := by
  induction n with
  | zero => exact GF.zero_mul _ _
  | succ n ih => rw [xorSum, xorSum, h.xor_mul (GF.elem_xorSum (F := s.gf) hf n) (hf n) ha, ih]

theorem one_pow (e : Nat) : s.gf.pow 1 e = 1 := by rw [← h.alpha_zero, h.pow_alpha, Nat.zero_mul]

theorem isElement_pow {a : Cell} (ha : s.isElement a) (e : Nat) : s.isElement (s.gf.pow a e) := by
  obtain rfl | ⟨i, rfl⟩ := h.eq_zero_or_alpha ha
  · rw [GF.pow, if_pos rfl]
    split
    · exact h.isElement_one
    · exact s.isElement_zero
  · rw [h.pow_alpha]
    exact h.isElement_alpha _

/-- There are no zero divisors. -/
theorem mul_ne_zero {a b : Cell} (ha : s.isElement a) (hb : s.isElement b) (hane : a ≠ 0) (hbne : b ≠ 0) :
    s.gf.mul a b ≠ 0 := by
  obtain ⟨i, rfl⟩ := (h.eq_zero_or_alpha ha).resolve_left hane
  obtain ⟨j, rfl⟩ := (h.eq_zero_or_alpha hb).resolve_left hbne
  rw [h.mul_alpha]
  exact h.alpha_ne_zero _

theorem isElement_inv {a : Cell} (ha : s.isElement a) (hne : a ≠ 0) : s.isElement (s.gf.inv a) := by
  obtain ⟨i, rfl⟩ := (h.eq_zero_or_alpha ha).resolve_left hne
  rw [h.inv_alpha]
  exact h.isElement_alpha _

theorem quot_mul_cancel {a b : Cell} (ha : s.isElement a) (hb : s.isElement b) (hne : b ≠ 0) :
    s.gf.mul (s.gf.quot a b) b = a := by
  rw [h.quot_eq_mul_inv ha hb hne, h.mul_assoc ha (h.isElement_inv hb hne) hb, GF.mul_comm _ _ b,
    h.mul_inv_cancel hb hne, h.mul_one ha]

end State.FieldReady

/-! ### Evaluation (42_polynomial.md R156) -/

@[simp] theorem polyEval_nil (F : GF) (x : Cell) : polyEval F [] x = 0 := rfl

theorem polyEval_cons (F : GF) (c : Cell) (p : List Cell) (x : Cell) :
    polyEval F (c :: p) x = F.mul (polyEval F p x) x ^^^ c := rfl

/-- Horner's loop from any index above the degree. -/
theorem horner_eq_polyEval (F : GF) {p : List Cell} {d k : Nat} (hd : IsDegree (Memory.read p) d) (hk : d < k)
    (x : Cell) : horner F (Memory.read p) k x = polyEval F p x := by
  have habove : ∀ i, k ≤ i → Memory.read p i = 0 := by
    obtain ⟨-, h⟩ | ⟨-, h⟩ := hd
    · exact fun i hi => h i (by omega)
    · exact fun i _ => h i
  rw [polyEval_eq_horner F p x (le_max_right k p.length), horner, horner,
    hornerLoop_zero_above F _ x (le_max_left k p.length) habove]

theorem polyEval_at_zero (F : GF) (p : List Cell) : polyEval F p 0 = Memory.read p 0 := by
  cases p with
  | nil => rfl
  | cons c p =>
    rw [polyEval_cons, Memory.read_cons_zero]
    exact (congrArg (· ^^^ c) (F.mul_zero _)).trans BitVec.zero_xor

/-- A list of zeros, as long as it may be, has value 0. -/
theorem polyEval_eq_zero (F : GF) {p : List Cell} (h : ∀ i, Memory.read p i = 0) (x : Cell) : polyEval F p x = 0 :=
  polyEval_congr F (q := []) h x

namespace State.Ready

variable {s : State} (h : s.Ready) {p q : List Cell}
include h

theorem isElement_polyEval (hp : s.gf.IsPoly p) (x : Cell) : s.isElement (polyEval s.gf p x) :=
  h.closed.elem_polyEval hp x

theorem polyEval_eq_xorSum (hp : s.gf.IsPoly p) {x : Cell} (hx : s.isElement x) :
    polyEval s.gf p x = xorSum p.length fun i => s.gf.mul (Memory.read p i) (s.gf.pow x i) := by
  have hf := h.fieldReady
  induction p with
  | nil => rfl
  | cons c p ih =>
    obtain ⟨hc, hp⟩ := GF.isPoly_cons.1 hp
    have hterm : ∀ i, s.isElement (s.gf.mul (Memory.read p i) (s.gf.pow x i)) := fun i => h.closed.elem_mul _ _
    calc polyEval s.gf (c :: p) x
        = c ^^^ s.gf.mul (polyEval s.gf p x) x := BitVec.xor_comm _ _
      _ = c ^^^ xorSum p.length (fun i => s.gf.mul (s.gf.mul (Memory.read p i) (s.gf.pow x i)) x) := by
        rw [ih hp, hf.xorSum_mul hterm hx]
      _ = c ^^^ xorSum p.length (fun i => s.gf.mul (Memory.read p i) (s.gf.pow x (i + 1))) := by
        rw [xorSum_congr fun i _ => by rw [hf.mul_assoc (hp.read i) (hf.isElement_pow hx i) hx, ← hf.pow_succ hx]]
      _ = _ := by
        rw [List.length_cons, xorSum_succ_left, Memory.read_cons_zero, hf.pow_zero, hf.mul_one hc]
        simp only [Memory.read_cons_succ]

/-- At 1 every power is 1. -/
theorem polyEval_at_one (hp : s.gf.IsPoly p) : polyEval s.gf p 1 = xorSum p.length (Memory.read p) := by
  have hf := h.fieldReady
  rw [h.polyEval_eq_xorSum hp hf.isElement_one]
  exact xorSum_congr fun i _ => by rw [hf.one_pow, hf.mul_one (hp.read i)]

theorem polyEval_polyAdd (hp : s.gf.IsPoly p) (hq : s.gf.IsPoly q) {x : Cell} (hx : s.isElement x) :
    polyEval s.gf (polyAdd p q) x = polyEval s.gf p x ^^^ polyEval s.gf q x := by
  induction p generalizing q with
  | nil => rw [polyAdd]; exact BitVec.zero_xor.symm
  | cons a p ih =>
    cases q with
    | nil => exact BitVec.xor_zero.symm
    | cons b q =>
      obtain ⟨-, hp⟩ := GF.isPoly_cons.1 hp
      obtain ⟨-, hq⟩ := GF.isPoly_cons.1 hq
      rw [polyAdd, polyEval_cons, polyEval_cons, polyEval_cons, ih hp hq, gfAdd,
        h.fieldReady.xor_mul (h.isElement_polyEval hp x) (h.isElement_polyEval hq x) hx]
      ac_rfl

theorem polyEval_polyScale (hp : s.gf.IsPoly p) {c x : Cell} (hc : s.isElement c) (hx : s.isElement x) :
    polyEval s.gf (polyScale s.gf c p) x = s.gf.mul c (polyEval s.gf p x) := by
  rw [polyScale]
  split
  case isTrue hzero => rw [hzero]; exact (GF.zero_mul _ _).symm
  induction p with
  | nil => exact (GF.mul_zero _ _).symm
  | cons a p ih =>
    obtain ⟨ha, hp⟩ := GF.isPoly_cons.1 hp
    have hf := h.fieldReady
    rw [List.map_cons, polyEval_cons, polyEval_cons, ih hp, hf.mul_xor hc (h.closed.elem_mul _ _) ha,
      hf.mul_assoc hc (h.isElement_polyEval hp x) hx]

theorem polyEval_polyMul (hp : s.gf.IsPoly p) (hq : s.gf.IsPoly q) {x : Cell} (hx : s.isElement x) :
    polyEval s.gf (polyMul s.gf p q) x = s.gf.mul (polyEval s.gf p x) (polyEval s.gf q x) := by
  induction p with
  | nil => exact (GF.zero_mul _ _).symm
  | cons a p ih =>
    obtain ⟨ha, hp⟩ := GF.isPoly_cons.1 hp
    have hf := h.fieldReady
    have hpe := h.isElement_polyEval hp x
    have hqe := h.isElement_polyEval hq x
    have hmul : s.gf.IsPoly (0 :: polyMul s.gf p q) :=
      GF.isPoly_cons.2 ⟨s.isElement_zero, h.closed.isPoly_polyMul p q⟩
    calc polyEval s.gf (polyMul s.gf (a :: p) q) x
        = s.gf.mul a (polyEval s.gf q x) ^^^ polyEval s.gf (0 :: polyMul s.gf p q) x := by
          rw [polyMul, h.polyEval_polyAdd (h.closed.isPoly_polyScale a q) hmul hx, h.polyEval_polyScale hq ha hx]
      _ = s.gf.mul a (polyEval s.gf q x) ^^^
            s.gf.mul (s.gf.mul (polyEval s.gf p x) (polyEval s.gf q x)) x := by
          rw [polyEval_cons, ih hp]
          exact congrArg _ BitVec.xor_zero
      _ = s.gf.mul (s.gf.mul (polyEval s.gf p x) x ^^^ a) (polyEval s.gf q x) := by
          rw [hf.xor_mul (h.closed.elem_mul _ _) ha hqe, hf.mul_assoc hpe hqe hx, hf.mul_assoc hpe hx hqe,
            GF.mul_comm _ x, BitVec.xor_comm]

end State.Ready

/-- Settles O31: Horner's loop does not see the zeros above the degree, and by the field laws each of its passes
respects sums and products. -/
theorem evaluationIsHomomorphism : Obligations.EvaluationIsHomomorphism := by
  intro s p q x hinv hfv hp hq hx
  have h : s.Ready := ⟨hinv, hfv⟩
  exact ⟨fun d k hd hk => horner_eq_polyEval _ hd hk x, h.polyEval_eq_xorSum hp hx, polyEval_at_zero _ p,
    h.polyEval_at_one hp, h.polyEval_polyAdd hp hq hx, h.polyEval_polyMul hp hq hx⟩

end Sys2Proof.Machine

/-! ## Product and division of polynomials -/

namespace Sys2Proof.Machine

/-! ### Coefficients of a product (42_polynomial.md R155) -/

/-- The coefficients of `c·x^k`. -/
def termCoef (k : Nat) (c : Cell) (i : Nat) : Cell := if i = k then c else 0

theorem State.isElement_termCoef (s : State) (k : Nat) {c : Cell} (hc : s.isElement c) (i : Nat) :
    s.isElement (termCoef k c i) := by
  rw [termCoef]
  split
  · exact hc
  · exact s.isElement_zero

/-- A factor `c·x^k` scales and shifts. -/
theorem mulCoef_termCoef (F : GF) (k : Nat) (c : Cell) (p : List Cell) :
    mulCoef F (termCoef k c) (Memory.read p) = Memory.read (polyShift k (polyScale F c p)) := by
  funext i
  have hother : ∀ j, j < i + 1 → j ≠ k → F.mul (termCoef k c j) (Memory.read p (i - j)) = 0 := fun j _ hne => by
    rw [termCoef, if_neg hne]
    exact F.zero_mul _
  rw [mulCoef, read_polyShift, read_polyScale]
  split
  · rw [xorSum_eq_single (by omega) hother, termCoef, if_pos rfl]
  · exact xorSum_eq_zero fun j hj => hother j hj (by omega)

theorem mulCoef_zero_left (F : GF) {p : Nat → Cell} (hp : ∀ i, p i = 0) (q : Nat → Cell) (i : Nat) :
    mulCoef F p q i = 0 := xorSum_eq_zero fun j _ => by
  rw [hp]
  exact F.zero_mul _

theorem mulCoef_zero_right (F : GF) (p : Nat → Cell) {q : Nat → Cell} (hq : ∀ i, q i = 0) (i : Nat) :
    mulCoef F p q i = 0 := xorSum_eq_zero fun j _ => by
  rw [hq]
  exact F.mul_zero _

/-- Above the degree there are zeros. -/
theorem IsDegree.eq_zero_of_lt {p : Nat → Cell} {d i : Nat} (h : IsDegree p d) (hi : d < i) : p i = 0 := by
  obtain ⟨-, h⟩ | ⟨-, h⟩ := h
  · exact h i hi
  · exact h i

/-- The zero polynomial is the one whose coefficient at its degree is 0. -/
theorem IsDegree.eq_zero {p : Nat → Cell} {d : Nat} (h : IsDegree p d) (hzero : p d = 0) (i : Nat) : p i = 0 := by
  obtain ⟨hne, -⟩ | ⟨-, h⟩ := h
  · exact absurd hzero hne
  · exact h i

section Degrees

variable {F : GF} {p q : Nat → Cell} {dp dq : Nat} (hp : IsDegree p dp) (hq : IsDegree q dq)
include hp hq

/-- Each term of a coefficient at or above the sum of the degrees has a factor above its degree, but for the one of the
two leading coefficients. -/
theorem mul_eq_zero_of_degree_le {i j : Nat} (hi : dp + dq ≤ i) (hj : i = dp + dq → j ≠ dp) :
    F.mul (p j) (q (i - j)) = 0 := by
  obtain hlt | hle := Nat.lt_or_ge dp j
  · rw [hp.eq_zero_of_lt hlt]
    exact F.zero_mul _
  · rw [hq.eq_zero_of_lt (by omega)]
    exact F.mul_zero _

theorem mulCoef_eq_zero_of_degree_lt {i : Nat} (hi : dp + dq < i) : mulCoef F p q i = 0 :=
  xorSum_eq_zero fun _ _ => mul_eq_zero_of_degree_le hp hq hi.le (by omega)

theorem mulCoef_degree : mulCoef F p q (dp + dq) = F.mul (p dp) (q dq) := by
  rw [mulCoef, xorSum_eq_single (k := dp) (by omega) fun j _ hj => mul_eq_zero_of_degree_le hp hq le_rfl fun _ => hj,
    Nat.add_sub_cancel_left]

end Degrees

namespace State.FieldReady

variable {s : State} (h : s.FieldReady) {p p' q : Nat → Cell}
include h

theorem mulCoef_xor (hp : ∀ i, s.isElement (p i)) (hp' : ∀ i, s.isElement (p' i)) (hq : ∀ i, s.isElement (q i))
    (i : Nat) : mulCoef s.gf (fun j => p j ^^^ p' j) q i = mulCoef s.gf p q i ^^^ mulCoef s.gf p' q i := by
  rw [mulCoef, mulCoef, mulCoef, ← xorSum_xor]
  exact xorSum_congr fun j _ => h.xor_mul (hp j) (hp' j) (hq _)

/-- The degree of a product is the sum of the degrees: the field has no zero divisors. -/
theorem isDegree_mulCoef (hp : ∀ i, s.isElement (p i)) (hq : ∀ i, s.isElement (q i)) {dp dq : Nat}
    (hdp : IsDegree p dp) (hdq : IsDegree q dq) (hpne : p dp ≠ 0) (hqne : q dq ≠ 0) :
    IsDegree (mulCoef s.gf p q) (dp + dq) := by
  refine .inl ⟨?_, fun i hi => mulCoef_eq_zero_of_degree_lt hdp hdq hi⟩
  rw [mulCoef_degree hdp hdq]
  exact h.mul_ne_zero (hp _) (hq _) hpne hqne

end State.FieldReady

/-! ### The loop of R157 -/

/-- What the loop keeps: quotient and remainder give back the dividend, the remainder is normalised and no longer than
the dividend, and the quotient has coefficients only where the passes so far have written. -/
structure DivisionInv (F : GF) (a b : List Cell) (db : Nat) (q r : List Cell) : Prop where
  quotient : F.IsPoly q
  remainder : F.IsPoly r
  sum : ∀ i, Memory.read a i = mulCoef F (Memory.read q) (Memory.read b) i ^^^ Memory.read r i
  trimmed : Memory.trim r = r
  length_le : r.length ≤ a.length
  support : ∀ i, Memory.read q i ≠ 0 → r.length ≤ i + db ∧ i + db < a.length

/-- A list whose coefficients from `n` on are zeros has a normalised form of at most `n`. -/
theorem Memory.trim_length_le_of_read {p : List Cell} {n : Nat} (h : ∀ i, n ≤ i → Memory.read p i = 0) :
    (Memory.trim p).length ≤ n := by
  have heq : Memory.trim p = Memory.trim (p.take n) := by
    refine Memory.ext_of_getLast (Memory.trim_getLast _) (Memory.trim_getLast _) fun i => ?_
    rw [Memory.read_trim, Memory.read_trim, Memory.read_take]
    split
    · rfl
    · exact h i (by omega)
  rw [heq]
  exact (Memory.trim_length_le _).trans (List.length_take_le _ _)

theorem Memory.trim_trim (p : List Cell) : Memory.trim (Memory.trim p) = Memory.trim p :=
  Memory.trim_of_getLast (Memory.trim_getLast p)

/-- A term written where there was 0 is a term added. -/
theorem Memory.read_put_of_zero {p : List Cell} {k : Nat} (hzero : Memory.read p k = 0) (c : Cell) :
    Memory.read (Memory.put p k c) = fun i => Memory.read p i ^^^ termCoef k c i := by
  funext i
  rw [Memory.read_put, termCoef]
  split
  case isTrue hik => rw [hik, hzero]; exact BitVec.zero_xor.symm
  case isFalse => exact BitVec.xor_zero.symm

/-- What two sums share cancels. -/
theorem xor_xor_xor_cancel (x y v : Cell) : (x ^^^ v) ^^^ (y ^^^ v) = x ^^^ y :=
  calc (x ^^^ v) ^^^ (y ^^^ v)
      = (x ^^^ y) ^^^ (v ^^^ v) := by ac_rfl
    _ = x ^^^ y := by rw [BitVec.xor_self, BitVec.xor_zero]

/-- The remainder after a pass that adds `c·x^k` to the quotient. -/
abbrev passRemainder (F : GF) (b r : List Cell) (k : Nat) (c : Cell) : List Cell :=
  Memory.trim (polyAdd r (polyShift k (polyScale F c b)))

namespace DivisionInv

variable {s : State} (h : s.Ready) {a b q r : List Cell} {db : Nat} (hinv : DivisionInv s.gf a b db q r)
  (hb : s.gf.IsPoly b) (hdb : IsDegree (Memory.read b) db) (hlead : Memory.read b db ≠ 0)
include h hinv hb hdb hlead

section Pass

variable {k : Nat} (hk : r.length = k + db + 1) {c : Cell}
  (hc : c = s.gf.quot (Memory.read r (k + db)) (Memory.read b db))
include hk hc

/-- A pass clears the leading coefficient of the remainder. -/
theorem length_passRemainder : (passRemainder s.gf b r k c).length ≤ k + db := by
  refine Memory.trim_length_le_of_read fun i hi => ?_
  rw [read_polyAdd, read_polyShift, if_pos (by omega), read_polyScale]
  obtain rfl | hlt := hi.eq_or_lt
  · rw [Nat.add_sub_cancel_left, hc, h.fieldReady.quot_mul_cancel (hinv.remainder.read _) (hb.read _) hlead]
    exact BitVec.xor_self
  · rw [Memory.read_of_length_le (by omega), hdb.eq_zero_of_lt (by omega)]
    exact BitVec.zero_xor.trans (GF.mul_zero _ _)

/-- A pass adds the same product to the quotient's and to the remainder. -/
theorem pass : DivisionInv s.gf a b db (Memory.put q k c) (passRemainder s.gf b r k c) := by
  have hshort := hinv.length_passRemainder h hb hdb hlead hk hc
  have hlen := hinv.length_le
  have hcelem : s.gf.Elem c := hc ▸ h.closed.elem_quot _ _
  have hqk : Memory.read q k = 0 := by
    by_contra hne
    obtain ⟨hwritten, -⟩ := hinv.support k hne
    omega
  refine ⟨hinv.quotient.put k hcelem, (hinv.remainder.polyAdd ((h.closed.isPoly_polyScale c b).polyShift k)).trim,
    fun i => ?_, Memory.trim_trim _, by omega, fun i hi => ?_⟩
  · rw [Memory.read_put_of_zero hqk,
      h.fieldReady.mulCoef_xor hinv.quotient.read (s.isElement_termCoef k hcelem) hb.read, mulCoef_termCoef,
      Memory.read_trim, read_polyAdd, xor_xor_xor_cancel]
    exact hinv.sum i
  · rw [Memory.read_put] at hi
    split at hi
    case isTrue => omega
    case isFalse =>
      obtain ⟨hlow, hhigh⟩ := hinv.support i hi
      omega

end Pass

/-- The loop ends with the remainder zero or of lower degree than the divisor. -/
theorem divLoop_spec {fuel : Nat} (hfuel : r.length ≤ fuel) :
    ∃ q' r', divLoop s.gf b db (Memory.read b db) fuel q r = (q', r') ∧ DivisionInv s.gf a b db q' r' ∧
      (polyIsZero r' = true ∨ polyDeg r' < db) := by
  induction fuel generalizing q r with
  | zero =>
    obtain rfl := List.length_eq_zero_iff.1 (Nat.le_zero.1 hfuel)
    exact ⟨q, [], rfl, hinv, .inl rfl⟩
  | succ fuel ih =>
    rw [divLoop]
    split
    case isTrue hdone => exact ⟨q, r, rfl, hinv, by simpa using hdone⟩
    case isFalse hgo =>
      obtain ⟨hne, hdeg⟩ : polyIsZero r ≠ true ∧ db ≤ polyDeg r := by simpa using hgo
      have hpos : r ≠ [] := by
        rintro rfl
        exact hne rfl
      have hdr : polyDeg r + 1 = r.length := by
        have := List.length_pos_iff.2 hpos
        rw [polyDeg, hinv.trimmed]
        omega
      have hsplit : polyDeg r - db + db = polyDeg r := Nat.sub_add_cancel hdeg
      have hnext := hinv.pass h hb hdb hlead (k := polyDeg r - db) (by omega) rfl
      have hshort := hinv.length_passRemainder h hb hdb hlead (k := polyDeg r - db) (by omega) rfl
      rw [hsplit] at hnext hshort
      exact ih hnext (hshort.trans (by omega))

end DivisionInv

/-- Quotient and remainder of a division of lists over the field (R157). -/
theorem State.Ready.polyDivmod_spec {s : State} (h : s.Ready) {a b : List Cell} {db : Nat} (ha : s.gf.IsPoly a)
    (hb : s.gf.IsPoly b) (hdb : IsDegree (Memory.read b) db) (hlead : Memory.read b db ≠ 0) :
    ∃ q r, polyDivmod s.gf a b = (q, r) ∧ DivisionInv s.gf a b db q r ∧ (polyIsZero r = true ∨ polyDeg r < db) := by
  have hread : Memory.read (Memory.trim b) = Memory.read b := funext (Memory.read_trim b)
  have hstart : DivisionInv s.gf a (Memory.trim b) db [] (Memory.trim a) :=
    { quotient := s.gf.isPoly_nil
      remainder := ha.trim
      sum := fun i => by
        rw [mulCoef_zero_left _ Memory.read_nil, Memory.read_trim]
        exact BitVec.zero_xor.symm
      trimmed := Memory.trim_trim a
      length_le := Memory.trim_length_le a
      support := fun i hi => absurd (Memory.read_nil i) hi }
  obtain ⟨q, r, heq, hinv, hrem⟩ :=
    hstart.divLoop_spec h hb.trim (hread ▸ hdb) (hread ▸ hlead) (Memory.trim_length_le a)
  refine ⟨q, r, ?_, { hinv with sum := hread ▸ hinv.sum }, hrem⟩
  rw [polyDivmod, (polyDeg_isDegree b).unique hdb]
  exact heq

end Sys2Proof.Machine

/-! ## The polynomial commands -/

namespace Sys2Proof.Machine

/-! ### Words of the polynomial commands -/

theorem toNat_selectorField (pd pa pb : BitVec 4) :
    (selectorField pd pa pb).toNat = pd.toNat * 256 + pa.toNat * 16 + pb.toNat := by
  rw [selectorField, toNat_append_eq, toNat_append_eq]
  omega

/-- The word of a command whose field `a` holds selectors (30_encoding.md R85). -/
theorem isWordOf_of_selectors {i : Instr} {grp fn pd pa pb : BitVec 4} {b : Cell} {opcode : Nat}
    (h : encodeFields i = ⟨grp, fn, selectorField pd pa pb, b⟩)
    (hop : grp.toNat * 2 ^ 28 + fn.toNat * 2 ^ 24 = opcode) :
    IsWordOf (BitVec.ofNat 32 (opcode + pd.toNat * 2 ^ 20 + pa.toNat * 2 ^ 16 + pb.toNat * 2 ^ 12 + b.toNat)) i := by
  have hword := isWordOf_of_operands hop h
  rw [toNat_selectorField] at hword
  convert hword using 2
  omega

/-- The illegal words of `PWR`'s group (30_encoding.md R97). -/
theorem illegalWord_pwr_iff {fn a b : Nat} (hfn : fn < 16) (ha : a < 4096) (hb : b < 4096) :
    IllegalWord (wordOf 2 fn a b) ↔ 10 ≤ fn := by
  rw [illegalWordsAreTheListedOnes 2 fn a b (by decide) hfn ha hb]
  simp

/-- The illegal words of `PRD`'s group (30_encoding.md R97). -/
theorem illegalWord_prd_iff {fn a b : Nat} (hfn : fn < 16) (ha : a < 4096) (hb : b < 4096) :
    IllegalWord (wordOf 3 fn a b) ↔ 10 ≤ fn ∨ b ≠ 0 := by
  rw [illegalWordsAreTheListedOnes 3 fn a b (by decide) hfn ha hb]
  simp

/-- The illegal words of the polynomial group (30_encoding.md R97). -/
theorem illegalWord_poly_iff {fn a b : Nat} (hfn : fn < 8) (ha : a < 4096) (hb : b < 4096) :
    IllegalWord (wordOf 4 fn a b) ↔
      fn = 0 ∧ (10 ≤ a / 256 ∨ a % 256 ≠ 0 ∨ b ≠ 0) ∨
      fn = 1 ∧ (10 ≤ a / 256 ∨ 10 ≤ a / 16 % 16 ∨ a % 16 ≠ 0 ∨ b ≠ 0) ∨
      (fn = 2 ∨ fn = 3) ∧ (a / 256 ≠ 0 ∨ 10 ≤ a / 16 % 16 ∨ a % 16 ≠ 0 ∨ b ≠ 0) ∨
      (fn = 4 ∨ fn = 5) ∧ (10 ≤ a / 256 ∨ 10 ≤ a / 16 % 16 ∨ 10 ≤ a % 16 ∨ b ≠ 0) ∨
      fn = 6 ∧ (a / 256 ≠ 0 ∨ 10 ≤ a / 16 % 16 ∨ 10 ≤ a % 16 ∨ b ≠ 0) ∨
      fn = 7 ∧ (a / 256 ≠ 0 ∨ 10 ≤ a / 16 % 16 ∨ a % 16 ≠ 0) := by
  rw [illegalWordsAreTheListedOnes 4 fn a b (by decide) (by omega) ha hb]
  simp [Nat.not_le.2 hfn]

/-! ### What a write leaves -/

theorem firstFailing_needField_only {s : State} (hf : s.status.fv = true) : firstFailing [s.needField] = none :=
  firstFailing_needField [] hf

theorem State.ArraysWf.length_le {s : State} (h : s.ArraysWf) (sel : ArrSel) : (s.arr sel).length ≤ 4096 :=
  ((Memory.wf_iff _).1 (h sel)).1

/-- The cells of an array register after a whole-array write. -/
theorem State.setArr_coef_same (s : State) (sel : ArrSel) (p : List Cell) (i : Nat) :
    (s.setArr sel p).coef sel i = if i < 4096 then Memory.read p i else 0 := by
  rw [State.coef, State.setArr_arr_same, Memory.read_store]

/-- A command that writes one array register and answers 0. -/
theorem exec_of_setArr {i : Instr} {s : State} {sel : ArrSel} {p : List Cell}
    (hpass : firstFailing (commandChecks i s) = none) (heffect : commandEffect i s = s.setArr sel p)
    (hvalue : commandValue i s = 0) :
    ∃ t, exec i s = .next t ∧ KeepsBut (s.answered 0) t [sel] ∧
      ∀ j, t.coef sel j = if j < 4096 then Memory.read p j else 0 := by
  rw [exec_of_pass hpass, heffect, hvalue]
  exact ⟨_, rfl, (KeepsBut.refl (s.answered 0) []).setArr sel p, s.setArr_coef_same sel p⟩

/-! ### Cells: `PWR` and `PRD` -/

/-- Settles O24: `PWR` writes the array with one place set, and `PRD` answers what is read. -/
theorem cellAccessRule : Obligations.CellAccessRule := by
  refine ⟨fun sel i c => ⟨isWordOf_of_operands (grp := 2) (fn := sel.number) rfl rfl,
      isWordOf_of_operand (grp := 3) (fn := sel.number) rfl rfl⟩,
    fun sel a b hsel hlt ha hb =>
      ⟨(illegalWord_pwr_iff hlt ha hb).2 hsel, (illegalWord_prd_iff hlt ha hb).2 (.inl hsel)⟩,
    fun sel hsel a b ha hb hne => (illegalWord_prd_iff (by omega) ha hb).2 (.inr hne),
    fun sel i c s hf => ⟨exec_of_needsField rfl hf, exec_of_needsField rfl hf⟩,
    fun sel i c s hf hc => exec_of_not_element hf hc rfl, fun sel i c s hf hc => ?_, fun sel i s hf => ?_⟩
  · obtain ⟨t, hexec, hkeep, hcells⟩ := exec_of_setArr (i := .pwr sel i c)
      ((firstFailing_needField _ hf).trans (firstFailing_needElement [] hc)) rfl rfl
    refine ⟨t, hexec, hkeep, fun j hj => ?_⟩
    rw [hcells, if_pos hj, Memory.read_put]
    rfl
  · exact exec_of_cell (firstFailing_needField_only hf) rfl rfl

/-! ### Arrays: `PCLR` and `PMOV` -/

/-- Settles O25: the arrays written are the zero polynomial and the source. -/
theorem pclrPmovRule : Obligations.PclrPmovRule := by
  refine ⟨fun pd pa => ⟨?_, ?_⟩, fun a b ha hb h => (illegalWord_poly_iff (by decide) ha hb).2 (by omega),
    fun a b ha hb h => (illegalWord_poly_iff (by decide) ha hb).2 (by omega),
    fun pd pa s hf => ⟨exec_of_needsField rfl hf, exec_of_needsField rfl hf⟩, fun pd s hf => ?_, fun pd pa s hf => ?_⟩
  · simpa using isWordOf_of_selectors (i := .pclr pd) rfl rfl
  · simpa using isWordOf_of_selectors (i := .pmov pd pa) rfl rfl
  · obtain ⟨t, hexec, hkeep, hcells⟩ := exec_of_setArr (i := .pclr pd) (firstFailing_needField_only hf) rfl rfl
    refine ⟨t, hexec, hkeep, fun j hj => ?_⟩
    rw [hcells, if_pos hj, Memory.read_nil]
  · obtain ⟨t, hexec, hkeep, hcells⟩ := exec_of_setArr (i := .pmov pd pa) (firstFailing_needField_only hf) rfl rfl
    refine ⟨t, hexec, hkeep, fun j hj => ?_⟩
    rw [hcells, if_pos hj]
    rfl

/-! ### Degree and zero test: `PDEG` and `PISZ` -/

/-- Settles O26: the computed degree is the degree, and the test is whether every coefficient is 0. -/
theorem pdegPiszRule : Obligations.PdegPiszRule := by
  refine ⟨fun pa => ⟨?_, ?_⟩, fun fn a b hfn ha hb h => (illegalWord_poly_iff (by omega) ha hb).2 (by omega),
    fun pa s hf => ⟨exec_of_needsField rfl hf, exec_of_needsField rfl hf⟩, fun pa s hwf hf => ?_, fun pa s hf => ?_⟩
  · simpa using isWordOf_of_selectors (i := .pdeg pa) rfl rfl
  · simpa using isWordOf_of_selectors (i := .pisz pa) rfl rfl
  · refine ⟨polyDeg (s.arr pa), polyDeg_isDegree _, ?_,
      exec_of_pass (i := .pdeg pa) (firstFailing_needField_only hf)⟩
    have hlength := hwf.length_le pa
    have htrim := Memory.trim_length_le (s.arr pa)
    rw [polyDeg]
    omega
  · have hexec : exec (.pisz pa) s = .next (s.answered (flagValue (polyIsZero (s.arr pa)))) :=
      exec_of_pass (i := .pisz pa) (firstFailing_needField_only hf)
    rw [hexec]
    refine ⟨fun hzero => ?_, fun hne => ?_⟩
    · rw [(polyIsZero_eq_true_iff _).2 hzero]
      rfl
    · rw [Bool.eq_false_iff.2 (mt (polyIsZero_eq_true_iff _).1 hne)]
      rfl

/-! ### Sum: `PADD` -/

/-- Settles O27: the sum is the XOR coefficient by coefficient, and a cell XOR itself is 0. -/
theorem paddRule : Obligations.PaddRule := by
  have hexec : ∀ (pd pa pb : ArrSel) (s : State), s.status.fv = true →
      ∃ t, exec (.padd pd pa pb) s = .next t ∧ KeepsBut (s.answered 0) t [pd] ∧
        ∀ j, t.coef pd j = if j < 4096 then s.coef pa j ^^^ s.coef pb j else 0 := by
    intro pd pa pb s hf
    obtain ⟨t, hexec, hkeep, hcells⟩ := exec_of_setArr (i := .padd pd pa pb) (firstFailing_needField_only hf) rfl rfl
    refine ⟨t, hexec, hkeep, fun j => ?_⟩
    rw [hcells, read_polyAdd]
    rfl
  refine ⟨fun pd pa pb => ?_, fun a b ha hb h => (illegalWord_poly_iff (by decide) ha hb).2 (by omega),
    fun pd pa pb s hf => exec_of_needsField rfl hf, fun pd pa pb s hf => ?_, fun sel s hf => ?_⟩
  · simpa using isWordOf_of_selectors (i := .padd pd pa pb) rfl rfl
  · obtain ⟨t, hexec, hkeep, hcells⟩ := hexec pd pa pb s hf
    exact ⟨t, hexec, hkeep, fun j hj => (hcells j).trans (if_pos hj)⟩
  · obtain ⟨t, hexec, -, hcells⟩ := hexec sel sel sel s hf
    refine ⟨t, hexec, fun j => ?_⟩
    rw [hcells, BitVec.xor_self]
    exact ite_self _

/-! ### Product: `PMUL` -/

/-- Two sources do not fit exactly when neither is zero and the degrees add up to more than 4095. -/
theorem productOverflows_iff {a b : Memory} {da db : Nat} (ha : IsDegree (Memory.read a) da)
    (hb : IsDegree (Memory.read b) db) :
    productOverflows a b = true ↔ Memory.read a da ≠ 0 ∧ Memory.read b db ≠ 0 ∧ 4095 < da + db := by
  have hzero : ∀ {p : Memory} {d : Nat}, IsDegree (Memory.read p) d → (polyIsZero p = true ↔ Memory.read p d = 0) :=
    fun hd => (polyIsZero_eq_true_iff _).trans ⟨fun h => h _, fun h => hd.eq_zero h⟩
  simp only [productOverflows, (polyDeg_isDegree a).unique ha, (polyDeg_isDegree b).unique hb, Bool.and_eq_true,
    Bool.not_eq_true', ← Bool.not_eq_true, hzero ha, hzero hb, decide_eq_true_eq, and_assoc]
  exact Iff.rfl

/-- Settles O28: the product is the convolution, zero with a zero source; the product of the leading coefficients is
not 0 and nothing stands above it. -/
theorem pmulRule : Obligations.PmulRule := by
  refine ⟨fun pd pa pb => ?_, fun a b ha hb h => (illegalWord_poly_iff (by decide) ha hb).2 (by omega),
    fun pd pa pb s hf => exec_of_needsField rfl hf, fun pd pa pb s da db hf hda hdb hane hbne hlt => ?_,
    fun pd pa pb s da db hf hda hdb hfits => ?_⟩
  · simpa using isWordOf_of_selectors (i := .pmul pd pa pb) rfl rfl
  · refine exec_of_fail (k := .overflow) ((firstFailing_needField _ hf).trans ?_)
    exact if_pos ((productOverflows_iff hda hdb).2 ⟨hane, hbne, hlt⟩)
  · have hpass : ¬productOverflows (s.arr pa) (s.arr pb) = true := fun hover => by
      obtain ⟨hane, hbne, hlt⟩ := (productOverflows_iff hda hdb).1 hover
      obtain hzero | hzero | hle := hfits
      · exact hane hzero
      · exact hbne hzero
      · omega
    obtain ⟨t, hexec, hkeep, hcells⟩ := exec_of_setArr (i := .pmul pd pa pb)
      ((firstFailing_needField _ hf).trans (if_neg hpass)) rfl rfl
    simp only [read_polyMul] at hcells
    refine ⟨t, hexec, hkeep, fun j hj => (hcells j).trans (if_pos hj), fun hzero j => ?_, fun hinv hane hbne => ?_⟩
    · have hprod : mulCoef s.gf (s.coef pa) (s.coef pb) j = 0 := by
        obtain hzero | hzero := hzero
        · exact mulCoef_zero_left _ (hda.eq_zero hzero) _ j
        · exact mulCoef_zero_right _ _ (hdb.eq_zero hzero) j
      exact (hcells j).trans ((congrArg (ite _ · 0) hprod).trans (ite_self _))
    · have h : s.Ready := ⟨hinv, hf⟩
      have hsum : da + db ≤ 4095 := (hfits.resolve_left hane).resolve_left hbne
      have hprod : t.coef pd = mulCoef s.gf (s.coef pa) (s.coef pb) := funext fun j => by
        rw [hcells]
        split
        · rfl
        · exact (mulCoef_eq_zero_of_degree_lt hda hdb (by omega)).symm
      rw [hprod]
      exact h.fieldReady.isDegree_mulCoef (h.isPoly pa).read (h.isPoly pb).read hda hdb hane hbne

/-! ### Division: `PDIVMOD` -/

/-- Under the invariant an array register holds both results of a division whole. -/
theorem DivisionInv.read_store {F : GF} {a b q r : List Cell} {db : Nat} (h : DivisionInv F a b db q r)
    (ha : a.length ≤ Config.plen) (i : Nat) :
    Memory.read (Memory.store q) i = Memory.read q i ∧ Memory.read (Memory.store r) i = Memory.read r i := by
  have hlen := h.length_le
  rw [Memory.read_store, Memory.read_store]
  split
  · exact ⟨rfl, rfl⟩
  · have hq : Memory.read q i = 0 := by
      by_contra hne
      obtain ⟨-, hlt⟩ := h.support i hne
      omega
    exact ⟨hq.symm, (Memory.read_of_length_le (by omega)).symm⟩

/-- `PDIVMOD` writes `QT` and `RM` and answers 0. -/
theorem exec_pdivmod {pa pb : ArrSel} {s : State} (hpass : firstFailing (commandChecks (.pdivmod pa pb) s) = none) :
    ∃ t, exec (.pdivmod pa pb) s = .next t ∧ KeepsBut (s.answered 0) t [.qt, .rm] ∧
      t.arr .qt = Memory.store (polyDivmod s.gf (s.arr pa) (s.arr pb)).1 ∧
      t.arr .rm = Memory.store (polyDivmod s.gf (s.arr pa) (s.arr pb)).2 := by
  obtain ⟨hregs, harrs⟩ := ((KeepsBut.refl (s.answered 0) []).setArr .qt
    (polyDivmod s.gf (s.arr pa) (s.arr pb)).1).setArr .rm (polyDivmod s.gf (s.arr pa) (s.arr pb)).2
  exact ⟨_, exec_of_pass hpass, ⟨hregs, fun sel hsel => harrs sel (mt (List.Perm.swap ..).mem_iff.1 hsel)⟩, rfl, rfl⟩

/-- Settles O29: the loop keeps that quotient and remainder give back the dividend, and each of its passes shortens the
remainder, so that it ends below the divisor. -/
theorem pdivmodRule : Obligations.PdivmodRule := by
  refine ⟨fun pa pb => ?_, fun a b ha hb h => (illegalWord_poly_iff (by decide) ha hb).2 (by omega),
    fun pa pb s hf => exec_of_needsField rfl hf, fun pa pb s hf hzero => ?_, fun pa pb s db hf hdb hlead => ?_⟩
  · simpa using isWordOf_of_selectors (i := .pdivmod pa pb) rfl rfl
  · refine exec_of_fail (k := .divideByZero) ((firstFailing_needField _ hf).trans ?_)
    exact if_pos ((polyIsZero_eq_true_iff _).2 hzero)
  · have hpass : firstFailing (commandChecks (.pdivmod pa pb) s) = none :=
      (firstFailing_needField _ hf).trans (if_neg fun hzero => hlead ((polyIsZero_eq_true_iff _).1 hzero db))
    obtain ⟨t, hexec, hkeep, hqt, hrm⟩ := exec_pdivmod hpass
    refine ⟨t, hexec, hkeep, fun hinv => ?_⟩
    have h : s.Ready := ⟨hinv, hf⟩
    have hlength := State.ArraysWf.length_le hinv.1 pa
    obtain ⟨q, r, heq, hdiv, hrem⟩ := h.polyDivmod_spec (h.isPoly pa) (h.isPoly pb) hdb hlead
    rw [heq] at hqt hrm
    have hquot : t.coef .qt = Memory.read q := funext fun i => by rw [State.coef, hqt, (hdiv.read_store hlength i).1]
    have hremainder : t.coef .rm = Memory.read r := funext fun i => by
      rw [State.coef, hrm, (hdiv.read_store hlength i).2]
    rw [hquot, hremainder]
    exact ⟨hdiv.sum, hrem.imp (polyIsZero_eq_true_iff r).1 fun hlt => ⟨polyDeg r, polyDeg_isDegree r, hlt⟩⟩

/-! ### Evaluation: `PEVAL` -/

theorem exec_peval {s : State} (hf : s.status.fv = true) {x : Cell} (hx : s.isElement x) (pa : ArrSel) :
    exec (.peval pa x) s = .next (s.answered (resultOf (polyEval s.gf (s.arr pa) x).toNat)) :=
  exec_of_cell ((firstFailing_needField _ hf).trans (firstFailing_needElement [] hx)) rfl rfl

/-- Settles O30: the fold over a canonical list is Horner's loop over all its cells. -/
theorem pevalRule : Obligations.PevalRule := by
  refine ⟨fun pa x => ?_, fun a b ha hb h => (illegalWord_poly_iff (by decide) ha hb).2 (by omega),
    fun pa x s hf => exec_of_needsField rfl hf, fun pa x s hf hx => exec_of_not_element hf hx rfl,
    fun pa x s hwf hf hx => ?_, fun pa x s hf hx => ⟨?_, fun hzero => ?_⟩⟩
  · simpa using isWordOf_of_selectors (i := .peval pa x) rfl rfl
  · rw [exec_peval hf hx, s.polyEval_arr (hwf pa)]
  · rw [exec_peval hf s.isElement_zero, polyEval_at_zero]
    rfl
  · rw [exec_peval hf hx, polyEval_eq_zero _ hzero]
    rfl

end Sys2Proof.Machine

/-! ## Products of linear factors

What `gen_roots` and `gen_binary` leave in `G` (43_generator_encoder.md R186, R188), for every list of exponents: the
product is monic, its constant term is a power of α, and its roots are the powers it was made of. -/

namespace Sys2Proof.Machine

theorem productOfRoots_append_singleton (F : GF) (js : List Nat) (j : Nat) :
    productOfRoots F (js ++ [j]) = polyMul F (productOfRoots F js) [F.alpha j, 1] := by
  rw [productOfRoots, List.foldl_append]
  rfl

/-- The constant term of a product with `x − a`. -/
theorem read_polyMul_root_zero (F : GF) (p : List Cell) (a : Cell) :
    Memory.read (polyMul F p [a, 1]) 0 = F.mul (Memory.read p 0) a := by
  rw [read_polyMul]
  exact BitVec.zero_xor

theorem State.FieldReady.mul_eq_zero_iff {s : State} (h : s.FieldReady) {a b : Cell} (ha : s.isElement a)
    (hb : s.isElement b) : s.gf.mul a b = 0 ↔ a = 0 ∨ b = 0 := by
  constructor
  · contrapose!
    exact fun ⟨hane, hbne⟩ => h.mul_ne_zero ha hb hane hbne
  · rintro (rfl | rfl)
    · exact GF.zero_mul _ _
    · exact GF.mul_zero _ _

namespace State.Ready

variable {s : State} (h : s.Ready)
include h

/-- The value of `x − a`. -/
theorem polyEval_root {x : Cell} (hx : s.isElement x) (a : Cell) : polyEval s.gf [a, 1] x = x ^^^ a := by
  rw [polyEval_cons, polyEval_cons, polyEval_nil, show s.gf.mul 0 x = 0 from GF.zero_mul _ _,
    show (0 : Cell) ^^^ 1 = 1 from rfl, GF.mul_comm, h.fieldReady.mul_one hx]

/-- The other coefficients of a product with `x − a`. -/
theorem read_polyMul_root_succ {p : List Cell} (hp : s.gf.IsPoly p) (a : Cell) (i : Nat) :
    Memory.read (polyMul s.gf p [a, 1]) (i + 1) = s.gf.mul (Memory.read p (i + 1)) a ^^^ Memory.read p i := by
  have hlow : ∀ j, j < i → s.gf.mul (Memory.read p j) (Memory.read [a, 1] (i + 1 - j)) = 0 := fun j hj => by
    rw [Memory.read_of_length_le (cs := [a, 1]) (by change 2 ≤ _; omega)]
    exact GF.mul_zero _ _
  rw [read_polyMul, mulCoef, xorSum, xorSum, xorSum_eq_zero hlow, Nat.sub_self, Nat.add_sub_cancel_left,
    Memory.read_cons_zero, Memory.read_cons_succ, Memory.read_cons_zero, h.fieldReady.mul_one (hp.read i)]
  exact (congrArg (· ^^^ _) BitVec.zero_xor).trans (BitVec.xor_comm _ _)

/-- The product of linear factors is monic, of as high a degree as it has factors. -/
theorem productOfRoots_monic (js : List Nat) :
    Memory.read (productOfRoots s.gf js) js.length = 1 ∧
      ∀ i, js.length < i → Memory.read (productOfRoots s.gf js) i = 0 := by
  induction js using List.reverseRecOn with
  | nil => exact ⟨rfl, fun i hi => Memory.read_of_length_le hi⟩
  | append_singleton js j ih =>
    obtain ⟨hone, hzero⟩ := ih
    have hp := h.closed.isPoly_productOfRoots js
    have hmul : ∀ i, js.length < i → s.gf.mul (Memory.read (productOfRoots s.gf js) i) (s.gf.alpha j) = 0 :=
      fun i hi => by
        rw [hzero i hi]
        exact GF.zero_mul _ _
    rw [productOfRoots_append_singleton, List.length_append, List.length_singleton]
    refine ⟨?_, fun i hi => ?_⟩
    · rw [h.read_polyMul_root_succ hp, hmul _ (Nat.lt_succ_self _), hone]
      rfl
    · obtain ⟨k, rfl⟩ := Nat.exists_eq_add_one.2 (Nat.zero_lt_of_lt hi)
      rw [h.read_polyMul_root_succ hp, hmul _ (by omega), hzero _ (by omega)]
      rfl

theorem productOfRoots_isDegree (js : List Nat) : IsDegree (Memory.read (productOfRoots s.gf js)) js.length := by
  obtain ⟨hone, hzero⟩ := h.productOfRoots_monic js
  exact .inl ⟨by rw [hone]; decide, hzero⟩

/-- The constant term is the product of the roots. -/
theorem read_productOfRoots_zero (js : List Nat) : Memory.read (productOfRoots s.gf js) 0 = s.gf.alpha js.sum := by
  induction js using List.reverseRecOn with
  | nil => exact h.fieldReady.alpha_zero.symm
  | append_singleton js j ih =>
    rw [productOfRoots_append_singleton, read_polyMul_root_zero, ih, h.fieldReady.mul_alpha, List.sum_append,
      List.sum_singleton]

/-- The roots are the powers of α the product was made of: the field has no zero divisors. -/
theorem polyEval_productOfRoots_eq_zero_iff (js : List Nat) {x : Cell} (hx : s.isElement x) :
    polyEval s.gf (productOfRoots s.gf js) x = 0 ↔ ∃ j ∈ js, x = s.gf.alpha j := by
  have hf := h.fieldReady
  induction js using List.reverseRecOn with
  | nil =>
    have hone : polyEval s.gf [1] x ≠ 0 := by
      rw [polyEval_cons, polyEval_nil, show s.gf.mul 0 x = 0 from GF.zero_mul _ _]
      decide
    simpa [productOfRoots] using hone
  | append_singleton js j ih =>
    have hp := h.closed.isPoly_productOfRoots js
    have hroot : s.gf.IsPoly [s.gf.alpha j, 1] := GF.isPoly_cons.2 ⟨hf.isElement_alpha j, h.closed.isPoly_one⟩
    rw [productOfRoots_append_singleton, h.polyEval_polyMul hp hroot hx,
      hf.mul_eq_zero_iff (h.isElement_polyEval hp x) (h.isElement_polyEval hroot x), h.polyEval_root hx]
    refine (or_congr ih BitVec.xor_eq_zero_iff).trans ?_
    simp [or_and_right, exists_or]

end State.Ready

end Sys2Proof.Machine

/-! ## Generator polynomials: `GENG` -/

namespace Sys2Proof.Machine

/-! ### An array register written whole -/

theorem State.setArr_answered_keepsBut (s : State) (sel : ArrSel) (p : List Cell) (v : BitVec 16) :
    KeepsBut (s.answered v) ((s.setArr sel p).answered v) [sel] := (KeepsBut.refl (s.answered v) []).setArr sel p

section Written

variable {s : State} {sel : ArrSel} {p : List Cell}

variable (hp : ∀ i, 4096 ≤ i → Memory.read p i = 0)
include hp

/-- A polynomial that fits an array register is held whole. -/
theorem State.setArr_coef_of_fits (i : Nat) : (s.setArr sel p).coef sel i = Memory.read p i := by
  rw [State.setArr_coef_same]
  split
  · rfl
  · exact (hp i (by omega)).symm

theorem State.setArr_valueAt_of_fits (x : Cell) : (s.setArr sel p).valueAt sel x = polyEval s.gf p x := by
  have hwf : Memory.wf ((s.setArr sel p).arr sel) = true := by
    rw [State.setArr_arr_same]
    exact Memory.wf_store p
  rw [← State.polyEval_arr _ hwf]
  exact polyEval_congr _ (State.setArr_coef_of_fits hp) x

end Written

/-! ### A generator in `G` -/

namespace State.Ready

variable {s : State} (h : s.Ready) {js : List Nat} (hjs : js.length < 2 ^ s.m.toNat)
include h

theorem pow_m_le : 2 ^ s.m.toNat ≤ 4096 := Nat.pow_le_pow_right (by decide) h.fieldReady.accepted.le_twelve

include hjs

/-- There are no more distinct roots than nonzero elements, so a generator fits `G`. -/
theorem productOfRoots_fits (i : Nat) (hi : 4096 ≤ i) : Memory.read (productOfRoots s.gf js) i = 0 := by
  have hm := h.pow_m_le
  exact (h.productOfRoots_monic js).2 i (by omega)

/-- `G` holds the monic polynomial whose degree is the number of the roots written into it. -/
theorem coef_g_monic : (s.setArr .g (productOfRoots s.gf js)).coef .g js.length = 1 ∧
    ∀ i, js.length < i → (s.setArr .g (productOfRoots s.gf js)).coef .g i = 0 := by
  simp only [State.setArr_coef_of_fits (h.productOfRoots_fits hjs)]
  exact h.productOfRoots_monic js

theorem valueAt_g_eq_zero_iff {x : Cell} (hx : s.isElement x) :
    (s.setArr .g (productOfRoots s.gf js)).valueAt .g x = 0 ↔ ∃ j ∈ js, x = s.gf.alpha j := by
  rw [State.setArr_valueAt_of_fits (h.productOfRoots_fits hjs)]
  exact h.polyEval_productOfRoots_eq_zero_iff js hx

end State.Ready

/-! ### `GENG` -/

/-- `1 + 2 + … + ρ`. -/
theorem sum_range'_one (rho : Nat) : (List.range' 1 rho).sum = rho * (rho + 1) / 2 := by
  have htriangle := Nat.triangle_succ rho
  rw [Nat.add_sub_cancel, Nat.mul_comm] at htriangle
  rw [List.sum_range', htriangle, Nat.mul_one, Nat.mul_one, Nat.add_comm]

/-- `GENG`'s range check passes exactly for `ρ` from 1 to `2^M − 2`. -/
theorem firstFailing_geng {s : State} (hf : s.status.fv = true) (rho : BitVec 12) :
    firstFailing (commandChecks (.geng rho) s) =
      if rho.toNat < 1 ∨ 2 ^ s.m.toNat < rho.toNat + 2 then some .invalidParameters else none := by
  have hiff : rho.toNat < 1 ∨ 2 ^ s.m.toNat - 2 < rho.toNat ↔ rho.toNat < 1 ∨ 2 ^ s.m.toNat < rho.toNat + 2 := by omega
  rw [← if_congr hiff rfl rfl]
  exact (firstFailing_needField _ hf).trans (by simp)

theorem exec_geng {s : State} (hf : s.status.fv = true) {rho : BitVec 12} (hlow : 1 ≤ rho.toNat)
    (hhigh : rho.toNat + 2 ≤ 2 ^ s.m.toNat) :
    exec (.geng rho) s = .next ((s.setArr .g (genRoots s.gf rho.toNat)).answered (resultOf rho.toNat)) := by
  rw [exec_of_pass ((firstFailing_geng hf rho).trans (if_neg (by omega))), commandValue, cellValue_eq]
  rfl

/-- Settles O33: the product of `x − α` to `x − α^ρ` is monic of degree `ρ` with those roots, and its constant term is
their product. -/
theorem gengRule : Obligations.GengRule := by
  refine ⟨fun rho => isWordOf_of_operand (grp := 5) (fn := 3) rfl rfl, secondFieldMustBeZero_of_formatA (by decide),
    fun rho s hf => exec_of_needsField rfl hf,
    fun rho s hf hbad => exec_of_fail (k := .invalidParameters) ((firstFailing_geng hf rho).trans (if_pos hbad)),
    fun rho s hf hlow hhigh => ?_⟩
  refine ⟨_, exec_geng hf hlow hhigh, s.setArr_answered_keepsBut _ _ _, fun hinv => ?_⟩
  have h : s.Ready := ⟨hinv, hf⟩
  have hord : s.ord = 2 ^ s.m.toNat - 1 := rfl
  have hlen : (List.range' 1 rho.toNat).length < 2 ^ s.m.toNat := by rw [List.length_range']; omega
  obtain ⟨hone, hzero⟩ := h.coef_g_monic hlen
  rw [List.length_range'] at hone hzero
  refine ⟨hone, hzero, ?_, fun i j hi hij hj he => ?_, fun x hx => ?_⟩
  · refine (State.setArr_coef_of_fits (s := s) (sel := .g) (h.productOfRoots_fits hlen) 0).trans ?_
    rw [h.read_productOfRoots_zero, sum_range'_one]
  · rw [h.fieldReady.alpha_eq_alpha_iff, Nat.mod_eq_of_lt (by omega), Nat.mod_eq_of_lt (by omega)] at he
    omega
  · refine (h.valueAt_g_eq_zero_iff hlen hx).trans (exists_congr fun i => ?_)
    rw [List.mem_range'_1, ← and_assoc]
    exact and_congr_left' (by omega)

end Sys2Proof.Machine

/-! ## Generator polynomials: `GENB`

The closure of R188 is the set of all `i·2^k mod ORD`, with no bound on `k`: doubling `M` times is no change. -/

namespace Sys2Proof.Machine

/-! ### The closure under doubling (43_generator_encoder.md R188) -/

theorem GF.mem_doublingClosure {F : GF} {t j : Nat} : j ∈ doublingClosure F t ↔
    j < F.ord ∧ ∃ i k, (1 ≤ i ∧ i ≤ 2 * t) ∧ k < F.m ∧ i * 2 ^ k % F.ord = j := by
  have hrange : ∀ i, (1 ≤ i ∧ i < 1 + 2 * t) ↔ (1 ≤ i ∧ i ≤ 2 * t) := fun i => by omega
  simp [doublingClosure, doublings, List.mem_range'_1, hrange, and_assoc]

theorem nodup_doublingClosure (F : GF) (t : Nat) : (doublingClosure F t).Nodup := List.nodup_range.filter _

/-- The closure has no more elements than there are powers of α. -/
theorem State.length_doublingClosure_lt (s : State) (t : Nat) : (doublingClosure s.gf t).length < 2 ^ s.m.toNat :=
  calc (doublingClosure s.gf t).length ≤ (List.range s.ord).length := List.length_filter_le _ _
    _ = s.ord := List.length_range
    _ < 2 ^ s.m.toNat := Nat.sub_lt (Nat.two_pow_pos _) (by decide)

/-- Doubling `m` times is no change modulo `2^m − 1`. -/
theorem two_pow_modEq (m k : Nat) : 2 ^ k ≡ 2 ^ (k % m) [MOD 2 ^ m - 1] := by
  have hone : 2 ^ m ≡ 1 [MOD 2 ^ m - 1] := Nat.modEq_sub Nat.one_le_two_pow
  calc 2 ^ k = (2 ^ m) ^ (k / m) * 2 ^ (k % m) := by rw [← pow_mul, ← pow_add, Nat.div_add_mod]
    _ ≡ 1 ^ (k / m) * 2 ^ (k % m) [MOD 2 ^ m - 1] := (hone.pow _).mul_right _
    _ = 2 ^ (k % m) := by rw [one_pow, one_mul]

namespace State.FieldReady

variable {s : State} (h : s.FieldReady) {t : Nat}
include h

theorem mem_doublingClosure_iff {j : Nat} :
    j ∈ doublingClosure s.gf t ↔ ∃ i k, (1 ≤ i ∧ i ≤ 2 * t) ∧ i * 2 ^ k % s.ord = j := by
  rw [GF.mem_doublingClosure]
  constructor
  · rintro ⟨-, i, k, hi, -, rfl⟩
    exact ⟨i, k, hi, rfl⟩
  · rintro ⟨i, k, hi, rfl⟩
    refine ⟨h.mod_ord_lt _, i, k % s.m.toNat, hi, Nat.mod_lt _ h.accepted.pos, ?_⟩
    exact (two_pow_modEq s.m.toNat k).symm.mul_left i

theorem coprime_ord_two_pow (k : Nat) : Nat.Coprime s.ord (2 ^ k) := by
  have hpow : 2 ^ s.m.toNat = 2 * 2 ^ (s.m.toNat - 1) := by
    rw [← pow_succ', Nat.sub_add_cancel h.accepted.pos]
  have hodd : s.ord % 2 = 1 := by
    have hpos := h.ord_pos
    rw [State.ord] at hpos ⊢
    omega
  exact (Nat.coprime_two_right.2 (Nat.odd_iff.2 hodd)).pow_right k

theorem doublingClosure_closed (ht : 2 * t < s.ord) : DoublingClosed s.ord t (doublingClosure s.gf t) := by
  constructor
  · intro j hlow hhigh
    refine h.mem_doublingClosure_iff.2 ⟨j, 0, ⟨hlow, hhigh⟩, ?_⟩
    rw [Nat.pow_zero, Nat.mul_one, Nat.mod_eq_of_lt (by omega)]
  · intro j hj
    obtain ⟨i, k, hi, rfl⟩ := h.mem_doublingClosure_iff.1 hj
    refine h.mem_doublingClosure_iff.2 ⟨i, k + 1, hi, ?_⟩
    rw [Nat.mul_mod_mod, Nat.pow_succ, ← Nat.mul_assoc, Nat.mul_comm]

/-- A closed set that holds `1` to `2t` holds all that doubling reaches from them. -/
theorem doublingClosure_least (ht : 2 * t < s.ord) {D : List Nat} (hD : DoublingClosed s.ord t D) :
    ∀ j ∈ doublingClosure s.gf t, j ∈ D := by
  obtain ⟨hbase, hdouble⟩ := hD
  intro j hj
  obtain ⟨i, k, ⟨hlow, hhigh⟩, rfl⟩ := h.mem_doublingClosure_iff.1 hj
  induction k with
  | zero =>
    rw [Nat.pow_zero, Nat.mul_one, Nat.mod_eq_of_lt (by omega)]
    exact hbase i hlow hhigh
  | succ k ih =>
    have hnext := hdouble _ (ih (h.mem_doublingClosure_iff.2 ⟨i, k, ⟨hlow, hhigh⟩, rfl⟩))
    rwa [Nat.mul_mod_mod, Nat.mul_comm, Nat.mul_assoc, ← Nat.pow_succ] at hnext

/-- `ORD` is odd, so doubling does not reach 0. -/
theorem zero_notMem_doublingClosure (ht : 2 * t < s.ord) : 0 ∉ doublingClosure s.gf t := fun hzero => by
  obtain ⟨i, k, ⟨hlow, hhigh⟩, hmod⟩ := h.mem_doublingClosure_iff.1 hzero
  have hdvd : s.ord ∣ i := (h.coprime_ord_two_pow k).dvd_of_dvd_mul_right (Nat.dvd_of_mod_eq_zero hmod)
  have hle := Nat.le_of_dvd hlow hdvd
  omega

end State.FieldReady

/-! ### `GENB` -/

/-- The range check of `GENB` and `CSETT` passes exactly for `t` from 1 to `(2^M − 2) / 2`. -/
theorem firstFailing_badCapacity {s : State} (hf : s.status.fv = true) (t : BitVec 12) :
    firstFailing [s.needField, (s.badCapacity t, .invalidParameters)] =
      if t.toNat < 1 ∨ 2 ^ s.m.toNat < 2 * t.toNat + 2 then some .invalidParameters else none := by
  have hiff : t.toNat < 1 ∨ 2 ^ s.m.toNat - 2 < 2 * t.toNat ↔ t.toNat < 1 ∨ 2 ^ s.m.toNat < 2 * t.toNat + 2 := by omega
  rw [← if_congr hiff rfl rfl]
  exact (firstFailing_needField _ hf).trans (by simp [State.badCapacity])

theorem State.Ready.polyDeg_genBinary {s : State} (h : s.Ready) (t : Nat) :
    polyDeg (genBinary s.gf t) = (doublingClosure s.gf t).length :=
  (polyDeg_isDegree _).unique (h.productOfRoots_isDegree _)

/-- What `GENB` does when its checks pass: the generator in `G`, its degree as the answer. -/
theorem State.Ready.exec_genb {s : State} (h : s.Ready) {t : BitVec 12} (hlow : 1 ≤ t.toNat)
    (hhigh : 2 * t.toNat + 2 ≤ 2 ^ s.m.toNat) : exec (.genb t) s =
      .next ((s.setArr .g (genBinary s.gf t.toNat)).answered (resultOf (doublingClosure s.gf t.toNat).length)) := by
  rw [exec_of_pass (i := .genb t) ((firstFailing_badCapacity h.fv t).trans (if_neg (by omega))), commandValue,
    h.polyDeg_genBinary]
  rfl

/-- Settles O34: `i·2^k mod ORD` with `i` from 1 to `2t` is the closure, and the product over it has its roots. -/
theorem genbRule : Obligations.GenbRule := by
  refine ⟨fun t => isWordOf_of_operand (grp := 5) (fn := 4) rfl rfl, secondFieldMustBeZero_of_formatA (by decide),
    fun t s hf => exec_of_needsField rfl hf,
    fun t s hf hbad => exec_of_fail (k := .invalidParameters) ((firstFailing_badCapacity hf t).trans (if_pos hbad)),
    fun t s hinv hf hlow hhigh => ?_⟩
  have h : s.Ready := ⟨hinv, hf⟩
  have hr := h.fieldReady
  have ht : 2 * t.toNat < s.ord := by rw [State.ord]; omega
  have hlen := s.length_doublingClosure_lt t.toNat
  obtain ⟨hone, hzero⟩ := h.coef_g_monic hlen
  exact ⟨doublingClosure s.gf t.toNat, _, nodup_doublingClosure _ _, hr.doublingClosure_closed ht,
    fun D => hr.doublingClosure_least ht, hr.zero_notMem_doublingClosure ht,
    h.exec_genb hlow hhigh, s.setArr_answered_keepsBut _ _ _, hone, hzero, fun x hx => h.valueAt_g_eq_zero_iff hlen hx⟩

end Sys2Proof.Machine

/-! ## The generator of `GENB` is binary

Squaring the coefficients of a product of linear factors doubles the exponents of its roots. On the closure doubling is
a permutation, so every coefficient of the generator is its own square, and those are 0 and 1. -/

namespace Sys2Proof.Machine

/-! ### Factors in another order -/

/-- One more factor `x − α^j`. -/
def mulRoot (F : GF) (g : List Cell) (j : Nat) : List Cell := polyMul F g [F.alpha j, 1]

theorem productOfRoots_eq_foldl (F : GF) (js : List Nat) : productOfRoots F js = js.foldl (mulRoot F) [1] := rfl

theorem read_foldl_mulRoot_congr (F : GF) (js : List Nat) {p q : List Cell} (hpq : Memory.read p = Memory.read q) :
    Memory.read (js.foldl (mulRoot F) p) = Memory.read (js.foldl (mulRoot F) q) := by
  induction js generalizing p q with
  | nil => exact hpq
  | cons j js ih => exact ih (funext fun i => by rw [mulRoot, mulRoot, read_polyMul, read_polyMul, hpq])

namespace State.FieldReady

variable {s : State} (h : s.FieldReady) {a b c : Cell} (ha : s.isElement a) (hb : s.isElement b)
include h ha hb

theorem mul_right_comm (hc : s.isElement c) : s.gf.mul (s.gf.mul a b) c = s.gf.mul (s.gf.mul a c) b := by
  rw [h.mul_assoc ha hb hc, GF.mul_comm _ b c, h.mul_assoc ha hc hb]

/-- Squaring is additive in characteristic two. -/
theorem mul_self_xor : s.gf.mul (a ^^^ b) (a ^^^ b) = s.gf.mul a a ^^^ s.gf.mul b b := by
  have hab : s.isElement (a ^^^ b) := GF.elem_gfAdd (F := s.gf) ha hb
  rw [h.mul_xor hab ha hb, h.xor_mul ha hb ha, h.xor_mul ha hb hb, GF.mul_comm _ b a,
    ← BitVec.xor_assoc, BitVec.xor_assoc (s.gf.mul a a), BitVec.xor_self, BitVec.xor_zero]

end State.FieldReady

namespace State.Ready

variable {s : State} (h : s.Ready)
include h

theorem read_mulRoot_comm {p : List Cell} (hp : s.gf.IsPoly p) (j k : Nat) :
    Memory.read (mulRoot s.gf (mulRoot s.gf p j) k) = Memory.read (mulRoot s.gf (mulRoot s.gf p k) j) := by
  have hf := h.fieldReady
  have hj := hf.isElement_alpha j
  have hk := hf.isElement_alpha k
  have hmul : ∀ i j, s.isElement (s.gf.mul (Memory.read p i) (s.gf.alpha j)) := fun i j => h.closed.elem_mul _ _
  have hpoly : ∀ j, s.gf.IsPoly (polyMul s.gf p [s.gf.alpha j, 1]) := fun j => h.closed.isPoly_polyMul _ _
  funext i
  rw [mulRoot, mulRoot, mulRoot, mulRoot]
  match i with
  | 0 => simp only [read_polyMul_root_zero, hf.mul_right_comm (hp.read 0) hj hk]
  | 1 =>
    simp only [h.read_polyMul_root_succ (hpoly _), h.read_polyMul_root_succ hp, read_polyMul_root_zero,
      hf.xor_mul (hmul _ _) (hp.read _) hk, hf.xor_mul (hmul _ _) (hp.read _) hj,
      hf.mul_right_comm (hp.read 1) hj hk]
    ac_rfl
  | i + 2 =>
    simp only [h.read_polyMul_root_succ (hpoly _), h.read_polyMul_root_succ hp,
      hf.xor_mul (hmul _ _) (hp.read _) hk, hf.xor_mul (hmul _ _) (hp.read _) hj,
      hf.mul_right_comm (hp.read (i + 2)) hj hk]
    ac_rfl

theorem read_foldl_mulRoot_perm {js ks : List Nat} (hperm : js.Perm ks) {p : List Cell} (hp : s.gf.IsPoly p) :
    Memory.read (js.foldl (mulRoot s.gf) p) = Memory.read (ks.foldl (mulRoot s.gf) p) := by
  induction hperm generalizing p with
  | nil => rfl
  | cons j _ ih => exact ih (h.closed.isPoly_polyMul _ _)
  | swap j k js => exact read_foldl_mulRoot_congr _ js (h.read_mulRoot_comm hp k j)
  | trans _ _ ih ih' => exact (ih hp).trans (ih' hp)

/-! ### Squares -/

theorem mul_mul_self {a b : Cell} (ha : s.isElement a) (hb : s.isElement b) :
    s.gf.mul (s.gf.mul a a) (s.gf.mul b b) = s.gf.mul (s.gf.mul a b) (s.gf.mul a b) := by
  have hf := h.fieldReady
  have hmul : ∀ c, s.isElement (s.gf.mul a c) := fun c => h.closed.elem_mul _ _
  rw [← hf.mul_assoc (hmul a) hb hb, hf.mul_right_comm ha ha hb, hf.mul_assoc (hmul b) ha hb]

theorem read_productOfRoots_double (js : List Nat) (i : Nat) :
    Memory.read (productOfRoots s.gf (js.map fun j => 2 * j % s.ord)) i =
      s.gf.mul (Memory.read (productOfRoots s.gf js) i) (Memory.read (productOfRoots s.gf js) i) := by
  have hf := h.fieldReady
  induction js using List.reverseRecOn generalizing i with
  | nil =>
    cases i with
    | zero => exact (hf.mul_one hf.isElement_one).symm
    | succ i => exact (GF.mul_zero _ _).symm
  | append_singleton js j ih =>
    have hp := h.closed.isPoly_productOfRoots js
    have hp' := h.closed.isPoly_productOfRoots (js.map fun j => 2 * j % s.ord)
    have hj := hf.isElement_alpha j
    have hdouble : s.gf.alpha (2 * j % s.ord) = s.gf.mul (s.gf.alpha j) (s.gf.alpha j) := by
      rw [hf.mul_alpha, hf.alpha_eq_alpha_iff, Nat.mod_mod, Nat.two_mul]
    rw [List.map_append, List.map_singleton, productOfRoots_append_singleton, productOfRoots_append_singleton, hdouble]
    cases i with
    | zero => rw [read_polyMul_root_zero, read_polyMul_root_zero, ih, h.mul_mul_self (hp.read 0) hj]
    | succ i =>
      rw [h.read_polyMul_root_succ hp', h.read_polyMul_root_succ hp, ih, ih,
        h.mul_mul_self (hp.read (i + 1)) hj, hf.mul_self_xor (h.closed.elem_mul _ _) (hp.read i)]

end State.Ready

namespace State.FieldReady

variable {s : State} (h : s.FieldReady) {t : Nat}
include h

/-- The elements that are their own squares are 0 and 1. -/
theorem toNat_le_one_of_mul_self {c : Cell} (hc : s.isElement c) (hself : s.gf.mul c c = c) : c.toNat ≤ 1 := by
  have hzero : s.gf.mul c (c ^^^ 1) = 0 := by
    rw [h.mul_xor hc hc h.isElement_one, hself, h.mul_one hc]
    exact BitVec.xor_self
  obtain rfl | hone := (h.mul_eq_zero_iff hc (GF.elem_gfAdd (F := s.gf) hc h.isElement_one)).1 hzero
  · decide
  · rw [BitVec.xor_eq_zero_iff.1 hone]
    decide

/-- Doubling permutes the closure: it is injective modulo the odd `ORD`. -/
theorem doublingClosure_map_double_perm (ht : 2 * t < s.ord) :
    ((doublingClosure s.gf t).map fun j => 2 * j % s.ord).Perm (doublingClosure s.gf t) := by
  obtain ⟨-, hdouble⟩ := h.doublingClosure_closed ht
  have hinj : ∀ j ∈ doublingClosure s.gf t, ∀ k ∈ doublingClosure s.gf t, 2 * j % s.ord = 2 * k % s.ord → j = k := by
    intro j hj k hk he
    have hmod : j ≡ k [MOD s.ord] := Nat.ModEq.cancel_left_of_coprime (h.coprime_ord_two_pow 1) he
    exact hmod.eq_of_lt_of_lt (GF.mem_doublingClosure.1 hj).1 (GF.mem_doublingClosure.1 hk).1
  have hnodup : ((doublingClosure s.gf t).map fun j => 2 * j % s.ord).Nodup :=
    (nodup_doublingClosure s.gf t).map_on hinj
  exact (List.subperm_of_subset hnodup (List.forall_mem_map.2 hdouble)).perm_of_length_le (List.length_map _).ge

/-- Each odd number below `2t` gives at most `M` elements of the closure, and every other element is one of these. -/
theorem length_doublingClosure_le : (doublingClosure s.gf t).length ≤ s.m.toNat * t := by
  have hsubset : doublingClosure s.gf t ⊆
      (List.range t).flatMap fun u => (List.range s.m.toNat).map fun k => (2 * u + 1) * 2 ^ k % s.ord := by
    intro j hj
    obtain ⟨i, k, ⟨hlow, hhigh⟩, rfl⟩ := h.mem_doublingClosure_iff.1 hj
    obtain ⟨e, o, ⟨u, rfl⟩, rfl⟩ := Nat.exists_eq_two_pow_mul_odd (Nat.ne_of_gt hlow)
    have hu : 2 * u + 1 ≤ 2 ^ e * (2 * u + 1) := Nat.le_mul_of_pos_left _ (Nat.two_pow_pos e)
    have hmod : (2 * u + 1) * 2 ^ ((e + k) % s.m.toNat) ≡ 2 ^ e * (2 * u + 1) * 2 ^ k [MOD s.ord] :=
      calc (2 * u + 1) * 2 ^ ((e + k) % s.m.toNat)
          ≡ (2 * u + 1) * 2 ^ (e + k) [MOD s.ord] := (two_pow_modEq s.m.toNat (e + k)).symm.mul_left _
        _ = 2 ^ e * (2 * u + 1) * 2 ^ k := by rw [Nat.pow_add]; ac_rfl
    simp only [List.mem_flatMap, List.mem_map, List.mem_range]
    exact ⟨u, by omega, (e + k) % s.m.toNat, Nat.mod_lt _ h.accepted.pos, hmod⟩
  refine (List.subperm_of_subset (nodup_doublingClosure s.gf t) hsubset).length_le.trans_eq ?_
  simp [List.length_flatMap, Nat.mul_comm]

theorem length_doublingClosure_pos (ht : 2 * t < s.ord) (hlow : 1 ≤ t) : 1 ≤ (doublingClosure s.gf t).length :=
  List.length_pos_of_mem ((h.doublingClosure_closed ht).1 1 le_rfl (by omega))

end State.FieldReady

/-- The generator of R188 has its coefficients in GF(2). -/
theorem State.Ready.genBinary_binary {s : State} (h : s.Ready) {t : Nat} (ht : 2 * t < s.ord) (i : Nat) :
    (Memory.read (genBinary s.gf t) i).toNat ≤ 1 := by
  have hperm := h.fieldReady.doublingClosure_map_double_perm ht
  refine h.fieldReady.toNat_le_one_of_mul_self ((h.closed.isPoly_productOfRoots _).read i) ?_
  rw [genBinary, ← h.read_productOfRoots_double]
  exact congrFun (h.read_foldl_mulRoot_perm hperm h.closed.isPoly_one) i

/-- Settles O35: doubling permutes the closure, so squaring its product's coefficients changes none of them. -/
theorem genbIsBinary : Obligations.GenbIsBinary := by
  intro t s hinv hf hlow hhigh
  have h : s.Ready := ⟨hinv, hf⟩
  have ht : 2 * t.toNat < s.ord := by rw [State.ord]; omega
  have hcoef : (s.setArr .g (genBinary s.gf t.toNat)).coef .g = Memory.read (genBinary s.gf t.toNat) :=
    funext (State.setArr_coef_of_fits (h.productOfRoots_fits (s.length_doublingClosure_lt t.toNat)))
  refine ⟨_, h.exec_genb hlow hhigh, ?_⟩
  rw [State.answered_res, funext (State.answered_coef _ _ _), hcoef]
  exact ⟨h.genBinary_binary ht, _, h.productOfRoots_isDegree _, rfl, h.fieldReady.length_doublingClosure_pos ht hlow,
    h.fieldReady.length_doublingClosure_le⟩

end Sys2Proof.Machine

/-! ## Code parameters, and the checks of the codec commands -/

namespace Sys2Proof.Machine

/-! ### `CSETN`, `CSETT` and `CSETMODE` -/

/-- The words of the setters whose immediate is out of range (30_encoding.md R97). -/
theorem illegalWord_setter_iff {fn a b : Nat} (hfn : fn < 3) (ha : a < 4096) (hb : b < 4096) :
    IllegalWord (wordOf 5 fn a b) ↔
      (fn = 0 ∨ fn = 1) ∧ 4096 ≤ a * 4096 + b ∨ fn = 2 ∧ 2 ≤ a * 4096 + b := by
  rw [illegalWordsAreTheListedOnes 5 fn a b (by decide) (by omega) ha hb]
  simp [show ¬13 ≤ fn by omega, show ¬(fn = 3 ∨ fn = 4) by omega, show ∀ k, 5 ≤ k → fn ≠ k by omega]

/-- `CSETN`'s range check passes exactly for `n` from 1 to `ORD`. -/
theorem firstFailing_csetn {s : State} (hf : s.status.fv = true) (n : BitVec 12) :
    firstFailing (commandChecks (.csetn n) s) =
      if n.toNat < 1 ∨ s.ord < n.toNat then some .invalidParameters else none :=
  (firstFailing_needField _ hf).trans (by simp [State.ord])

/-- A command that writes one register and answers 0. -/
theorem exec_of_register {i : Instr} {s s' : State} (hpass : firstFailing (commandChecks i s) = none)
    (heffect : commandEffect i s = s') (hvalue : commandValue i s = 0) : exec i s = .next (s'.answered 0) := by
  rw [exec_of_pass hpass, heffect, hvalue]

/-- Settles O32: each setter's only check after the field is its range. -/
theorem codeSettersRule : Obligations.CodeSettersRule := by
  refine ⟨fun v => ⟨?_, ?_⟩, isWordOf_iff.2 rfl, isWordOf_iff.2 rfl,
    fun a b ha hb h => ⟨(illegalWord_setter_iff (by decide) ha hb).2 (.inl ⟨.inl rfl, h⟩),
      (illegalWord_setter_iff (by decide) ha hb).2 (.inl ⟨.inr rfl, h⟩)⟩,
    fun a b ha hb h => (illegalWord_setter_iff (by decide) ha hb).2 (.inr ⟨rfl, h⟩),
    fun v mode s hf => ⟨exec_of_needsField rfl hf, exec_of_needsField rfl hf, exec_of_needsField rfl hf⟩,
    fun n s hf hbad => exec_of_fail (k := .invalidParameters) ((firstFailing_csetn hf n).trans (if_pos hbad)),
    fun n s hf hlow hhigh => exec_of_register ((firstFailing_csetn hf n).trans (if_neg (by omega))) rfl rfl,
    fun t s hf hbad => exec_of_fail (k := .invalidParameters) ((firstFailing_badCapacity hf t).trans (if_pos hbad)),
    fun t s hf hlow hhigh => exec_of_register (i := .csett t)
      ((firstFailing_badCapacity hf t).trans (if_neg (by omega))) rfl rfl,
    fun mode s hf => exec_of_register (firstFailing_needField_only hf) rfl rfl⟩
  · simpa using isWordOf_of_operands (i := .csetn v) (grp := 5) (fn := 0) rfl rfl
  · simpa using isWordOf_of_operands (i := .csett v) (grp := 5) (fn := 1) rfl rfl

/-! ### `GeomOK` and `DecOK` -/

/-- A command whose checks begin with some that fail. -/
theorem firstFailing_append_of_some {cs ds : List (Bool × FaultKind)} {k : FaultKind}
    (h : firstFailing cs = some k) : firstFailing (cs ++ ds) = some k := by
  rw [firstFailing_append, h, Option.some_or]

theorem firstFailing_append_of_none {cs ds : List (Bool × FaultKind)} (h : firstFailing cs = none) :
    firstFailing (cs ++ ds) = firstFailing ds := by
  rw [firstFailing_append, h, Option.none_or]

/-- The checks of a decoder command begin with those of `DecOK` (43_generator_encoder.md R185). -/
theorem commandChecks_eq_decChecks_append {i : Instr} (hi : i ∈ decoderCommands) (s : State) :
    ∃ cs, commandChecks i s = s.decChecks ++ cs := by
  simp only [decoderCommands, List.mem_cons, List.not_mem_nil, or_false] at hi
  obtain rfl | rfl | rfl | rfl | rfl | rfl | rfl := hi
  case inl | inr.inr.inr.inr.inr.inr => exact ⟨_, rfl⟩
  all_goals exact ⟨[], (List.append_nil _).symm⟩

theorem exec_of_not_decOK {i : Instr} (hi : i ∈ decoderCommands) {s : State} (hf : s.status.fv = true)
    (hd : ¬s.DecOK) : exec i s = .next (s.faulted 1) := by
  obtain ⟨cs, hcs⟩ := commandChecks_eq_decChecks_append hi s
  exact exec_of_fail (k := .invalidParameters)
    (hcs ▸ firstFailing_append_of_some (s.firstFailing_decChecks.2.1 hf hd))

theorem exec_enc_of_not_geomOK {s : State} (hf : s.status.fv = true) (hg : ¬s.GeomOK) :
    exec .enc s = .next (s.faulted 1) :=
  exec_of_fail (k := .invalidParameters) (firstFailing_append_of_some (s.firstFailing_geomChecks.2.1 hf hg))

/-- Settles O37: the checks of a decoder command begin with `DecOK`'s, and those of `ENC` with `GeomOK`'s. -/
theorem decoderChecks : Obligations.DecoderChecks := by
  have hneeds : ∀ i ∈ Instr.enc :: decoderCommands, needsField i = true := by decide
  refine ⟨fun i hi s hf => exec_of_needsField (hneeds i hi) hf, fun i hi s => exec_of_not_decOK hi,
    fun s => exec_enc_of_not_geomOK, fun fn hlow hhigh => immediateMustBeZero_of_formatZ ?_⟩
  simp only [List.mem_cons, Prod.mk.injEq, List.not_mem_nil, or_false, true_and]
  omega

end Sys2Proof.Machine

/-! ## The encoder -/

namespace Sys2Proof.Machine

theorem Memory.read_map_range (f : Nat → Cell) (n i : Nat) :
    Memory.read ((List.range n).map f) i = if i < n then f i else 0 := by
  split
  case isTrue hi => simp [Memory.read, hi]
  case isFalse hi => exact Memory.read_of_length_le (by simpa using hi)

/-! ### The checks of `ENC` (43_generator_encoder.md R191) -/

/-- A binary check that is made in BCH mode only (60_exceptions.md R248). -/
theorem bchCheck_eq_false_iff (mode : Mode) (cells : List Cell) :
    (mode == .bch && notBinary cells) = false ↔ (mode = .bch → ∀ i, (Memory.read cells i).toNat ≤ 1) := by
  rw [Bool.and_eq_false_imp, beq_iff_eq, notBinary_eq_false_iff]

/-- Checks that all raise one kind. -/
theorem firstFailing_append_of_kind {cs ds : List (Bool × FaultKind)} {k : FaultKind} (hkind : ∀ c ∈ cs, c.2 = k)
    (hfail : firstFailing cs ≠ none) : firstFailing (cs ++ ds) = some k := by
  obtain ⟨k', hk'⟩ := Option.ne_none_iff_exists'.1 hfail
  rw [firstFailing_append_of_some hk', ← hkind _ (firstFailing_mem hk')]

/-- The checks of `ENC` on the generator. -/
def State.generatorChecks (s : State) : List (Bool × FaultKind) :=
  [(polyIsZero s.arrays.g, .invalidParameters),
    (s.parityLength < 1 || s.n.toNat - 1 < s.parityLength, .invalidParameters),
    (s.mode == .rs && s.n.toNat != 2 ^ s.m.toNat - 1, .invalidParameters),
    (s.mode == .bch && notBinary s.arrays.g, .invalidParameters)]

theorem commandChecks_enc (s : State) : commandChecks .enc s =
    s.geomChecks ++ (s.generatorChecks ++ [(s.mode == .bch && notBinary s.dataSymbols, .operandRange)]) := rfl

theorem State.generatorChecks_kind (s : State) : ∀ c ∈ s.generatorChecks, c.2 = .invalidParameters := by
  simp [State.generatorChecks]

/-- With a sound geometry the checks on the generator pass exactly when `EncOK` holds of the parity length. -/
theorem State.firstFailing_generatorChecks_eq_none_iff {s : State} (hg : s.GeomOK) :
    firstFailing s.generatorChecks = none ↔ s.EncOK s.parityLength := by
  have hzero : 1 ≤ s.parityLength → polyIsZero s.arrays.g = false := fun hlow => by
    obtain ⟨hne, -⟩ | ⟨hdeg, -⟩ := polyDeg_isDegree s.arrays.g
    · exact Bool.eq_false_iff.2 fun hz => hne ((polyIsZero_eq_true_iff _).1 hz _)
    · exact absurd hlow (by rw [State.parityLength, hdeg]; decide)
  have hrange : (decide (s.parityLength < 1) || decide (s.n.toNat - 1 < s.parityLength)) = false ↔
      1 ≤ s.parityLength ∧ s.parityLength ≤ s.n.toNat - 1 := by
    rw [Bool.or_eq_false_iff, decide_eq_false_iff_not, decide_eq_false_iff_not, Nat.not_lt, Nat.not_lt]
  have hlength : (s.mode == .rs && s.n.toNat != 2 ^ s.m.toNat - 1) = false ↔ (s.mode = .rs → s.n.toNat = s.ord) := by
    rw [Bool.and_eq_false_imp, beq_iff_eq, bne_eq_false_iff_eq, State.ord]
  simp only [firstFailing_eq_none_iff, State.generatorChecks, List.forall_mem_cons, hrange, hlength,
    bchCheck_eq_false_iff]
  constructor
  · rintro ⟨-, ⟨hlow, hhigh⟩, hrs, hbch, -⟩
    exact ⟨hg, polyDeg_isDegree _, hlow, hhigh, hrs, hbch⟩
  · rintro ⟨-, -, hlow, hhigh, hrs, hbch⟩
    exact ⟨hzero hlow, ⟨hlow, hhigh⟩, hrs, hbch, fun c hc => absurd hc List.not_mem_nil⟩

/-- Some check on the configuration or the generator fails. -/
theorem exec_enc_of_not_encOK {s : State} (hf : s.status.fv = true) (hno : ∀ r, ¬s.EncOK r) :
    exec .enc s = .next (s.faulted 1) := by
  by_cases hg : s.GeomOK
  · refine exec_of_fail (k := .invalidParameters) ?_
    rw [commandChecks_enc, firstFailing_append_of_none (s.firstFailing_geomChecks.2.2 hg)]
    exact firstFailing_append_of_kind s.generatorChecks_kind
      (mt (State.firstFailing_generatorChecks_eq_none_iff hg).1 (hno _))
  · exact exec_enc_of_not_geomOK hf hg

namespace State.EncOK

variable {s : State} {r : Nat} (h : s.EncOK r)
include h

theorem geomOK : s.GeomOK := by
  obtain ⟨hg, -⟩ := h
  exact hg

theorem fv : s.status.fv = true := by
  obtain ⟨hf, -⟩ := h.geomOK
  exact hf

theorem isDegree : IsDegree (s.coef .g) r := by
  obtain ⟨-, hdeg, -⟩ := h
  exact hdeg

theorem parityLength_eq : s.parityLength = r := (polyDeg_isDegree _).unique h.isDegree

theorem parity_bounds : 1 ≤ r ∧ r < s.n.toNat := by
  obtain ⟨-, -, hlow, hhigh, -⟩ := h
  omega

theorem coef_degree_ne_zero : s.coef .g r ≠ 0 := by
  obtain ⟨-, ⟨hne, -⟩ | ⟨hzero, -⟩, hlow, -⟩ := h
  · exact hne
  · omega

theorem parityBase_eq : s.parityBase = s.parityAt r := by
  rw [State.parityBase, State.parityAt, State.dataLength, h.parityLength_eq]
  cases s.mode <;> rfl

theorem dataBase_eq : s.dataBase = s.dataAt r := by
  rw [State.dataBase, State.dataAt, h.parityLength_eq]
  cases s.mode <;> rfl

theorem read_dataSymbols (i : Nat) :
    Memory.read s.dataSymbols i = if i < s.n.toNat - r then s.coef .cw (s.dataAt r + i) else 0 := by
  rw [State.dataSymbols, Memory.read_map_range, State.dataLength, h.parityLength_eq, h.dataBase_eq]
  rfl

/-- With the configuration and the generator sound only the check of the data is left. -/
theorem firstFailing_enc : firstFailing (commandChecks .enc s) =
    if s.mode == .bch && notBinary s.dataSymbols then some .operandRange else none := by
  have hgen : firstFailing s.generatorChecks = none :=
    (State.firstFailing_generatorChecks_eq_none_iff h.geomOK).2 (h.parityLength_eq.symm ▸ h)
  rw [commandChecks_enc, firstFailing_append_of_none (s.firstFailing_geomChecks.2.2 h.geomOK),
    firstFailing_append_of_none hgen]
  rfl

/-- In BCH mode the data symbols are the cells from `r` to `N`. -/
theorem dataCheck_eq_false_iff : (s.mode == .bch && notBinary s.dataSymbols) = false ↔
    (s.mode = .bch → ∀ i, r ≤ i → i < s.n.toNat → (s.coef .cw i).toNat ≤ 1) := by
  rw [bchCheck_eq_false_iff]
  refine forall_congr' fun hmode => ?_
  simp only [h.read_dataSymbols, State.dataAt, if_pos hmode]
  constructor
  · intro hall i hlow hhigh
    have hi := hall (i - r)
    rwa [if_pos (by omega), Nat.add_sub_cancel' hlow] at hi
  · intro hall i
    split
    · exact hall _ (by omega) (by omega)
    · decide

end State.EncOK

/-! ### The cells `ENC` writes (43_generator_encoder.md R190) -/

theorem State.parityAt_bch {s : State} (hmode : s.mode = .bch) (r : Nat) : s.parityAt r = 0 := if_pos hmode

namespace State.EncOK

variable {s : State} {r : Nat} (h : s.EncOK r)
include h

theorem parityAt_add_le : s.parityAt r + r ≤ s.n.toNat := by
  have hbounds := h.parity_bounds
  rw [State.parityAt]
  split <;> omega

theorem length_paritySymbols : s.paritySymbols.length = r := by
  rw [State.paritySymbols, List.length_map, List.length_range, h.parityLength_eq]

theorem encodeWord_coef {i : Nat} (hi : i < 4096) : s.encodeWord.coef .cw i =
    if s.parityAt r ≤ i ∧ i < s.parityAt r + r then Memory.read s.paritySymbols (i - s.parityAt r)
    else s.coef .cw i := by
  rw [State.encodeWord, State.setArr_coef_same, if_pos hi, Memory.read_writeFrom _ _ _ hi, h.length_paritySymbols,
    h.parityBase_eq]
  rfl

theorem encodeWord_coef_parity {j : Nat} (hj : j < r) :
    s.encodeWord.coef .cw (s.parityAt r + j) = Memory.read s.paritySymbols j := by
  have hfits := h.parityAt_add_le
  have hn := s.n.isLt
  rw [h.encodeWord_coef (by omega), if_pos (by omega), Nat.add_sub_cancel_left]

theorem encodeWord_coef_parity_bch (hmode : s.mode = .bch) {j : Nat} (hj : j < r) :
    s.encodeWord.coef .cw j = Memory.read s.paritySymbols j := by
  have hcell := h.encodeWord_coef_parity hj
  rwa [State.parityAt_bch hmode, Nat.zero_add] at hcell

theorem encodeWord_coef_of_outside {i : Nat} (hi : i < 4096) (hout : i < s.parityAt r ∨ s.parityAt r + r ≤ i) :
    s.encodeWord.coef .cw i = s.coef .cw i := by
  rw [h.encodeWord_coef hi, if_neg (by omega)]

/-- What `ENC` does when its checks pass. -/
theorem exec_enc (hbits : s.mode = .bch → ∀ i, r ≤ i → i < s.n.toNat → (s.coef .cw i).toNat ≤ 1) :
    exec .enc s = .next (s.encodeWord.answered 0) :=
  exec_of_pass (h.firstFailing_enc.trans (if_neg (Bool.eq_false_iff.1 (h.dataCheck_eq_false_iff.2 hbits))))

end State.EncOK

/-! ### The parity (43_generator_encoder.md R190) -/

/-- The dividend of R190. -/
def State.encoderDividend (s : State) : List Cell := polyShift s.parityLength s.dataSymbols

theorem State.Ready.isPoly_encoderDividend {s : State} (h : s.Ready) : s.gf.IsPoly s.encoderDividend :=
  GF.IsPoly.polyShift (GF.isPoly_map fun _ _ => (h.isPoly .cw).read _) _

theorem State.Ready.isPoly_paritySymbols {s : State} (h : s.Ready) : s.gf.IsPoly s.paritySymbols :=
  GF.isPoly_map fun j _ => (h.closed.isPoly_polyDivmod h.isPoly_encoderDividend _).2.read j

theorem State.read_paritySymbols (s : State) (j : Nat) : Memory.read s.paritySymbols j =
    if j < s.parityLength then Memory.read (polyDivmod s.gf s.encoderDividend s.arrays.g).2 j else 0 :=
  Memory.read_map_range _ _ _

/-- Parity below, data above: a multiple of the generator, since the parity is the remainder of the data. -/
theorem State.Ready.parity_and_data_multiple {s : State} (h : s.Ready) {r : Nat} (he : s.EncOK r) :
    ∃ q, s.gf.IsPoly q ∧ ∀ i, (if i < r then Memory.read s.paritySymbols i else Memory.read s.dataSymbols (i - r)) =
      mulCoef s.gf (Memory.read q) (s.coef .g) i := by
  obtain ⟨q, rem, heq, hdiv, hrem⟩ := h.polyDivmod_spec h.isPoly_encoderDividend (h.isPoly .g) he.isDegree
    he.coef_degree_ne_zero
  have hhigh : ∀ i, r ≤ i → Memory.read rem i = 0 := by
    obtain hzero | hdeg := hrem
    · exact fun i _ => (polyIsZero_eq_true_iff rem).1 hzero i
    · exact fun i hi => (polyDeg_isDegree rem).eq_zero_of_lt (by omega)
  refine ⟨q, hdiv.quotient, fun i => ?_⟩
  have hsum := hdiv.sum i
  rw [State.encoderDividend, read_polyShift, he.parityLength_eq] at hsum
  split
  case isTrue hi =>
    rw [if_neg (by omega)] at hsum
    rw [State.read_paritySymbols, he.parityLength_eq, if_pos hi, show s.arrays.g = s.arr .g from rfl, heq]
    exact (BitVec.xor_eq_zero_iff.1 hsum.symm).symm
  case isFalse hi =>
    rw [if_pos (by omega), hhigh i (by omega)] at hsum
    exact hsum.trans BitVec.xor_zero

end Sys2Proof.Machine

/-! ## `ENC` as a whole -/

namespace Sys2Proof.Machine

/-! ### Division of binary polynomials -/

/-- Every coefficient is 0 or 1. -/
def IsBinary (p : List Cell) : Prop := ∀ i, (Memory.read p i).toNat ≤ 1

theorem cell_toNat_le_one_iff {c : Cell} : c.toNat ≤ 1 ↔ c = 0 ∨ c = 1 := by
  constructor
  · intro hc
    obtain hzero | hone := Nat.le_one_iff_eq_zero_or_eq_one.1 hc
    · exact .inl (BitVec.eq_of_toNat_eq hzero)
    · exact .inr (BitVec.eq_of_toNat_eq hone)
  · rintro (rfl | rfl) <;> decide

theorem xor_toNat_le_one {a b : Cell} (ha : a.toNat ≤ 1) (hb : b.toNat ≤ 1) : (a ^^^ b).toNat ≤ 1 := by
  rw [BitVec.toNat_xor]
  exact Nat.le_of_lt_succ (Nat.xor_lt_two_pow (n := 1) (Nat.lt_succ_of_le ha) (Nat.lt_succ_of_le hb))

namespace State.FieldReady

variable {s : State} (h : s.FieldReady) {a b : Cell} (ha : a.toNat ≤ 1)
include h ha

theorem mul_toNat_le_one (hb : b.toNat ≤ 1) : (s.gf.mul a b).toNat ≤ 1 := by
  obtain rfl | rfl := cell_toNat_le_one_iff.1 ha
  · rw [show s.gf.mul 0 b = 0 from GF.zero_mul _ _]
    decide
  · have hbelem : s.isElement b := by
      obtain rfl | rfl := cell_toNat_le_one_iff.1 hb
      · exact s.isElement_zero
      · exact h.isElement_one
    rwa [GF.mul_comm, h.mul_one hbelem]

theorem quot_one_toNat_le_one : (s.gf.quot a 1).toNat ≤ 1 := by
  obtain rfl | rfl := cell_toNat_le_one_iff.1 ha
  · rw [GF.quot, if_pos rfl]
    decide
  · rw [h.quot_self h.isElement_one (by decide)]
    decide

end State.FieldReady

namespace State.FieldReady

variable {s : State} (h : s.FieldReady) {b : List Cell} (hb : IsBinary b)
include h hb

/-- A pass of R157 with a binary divisor keeps a binary remainder binary. -/
theorem isBinary_passRemainder {r : List Cell} (hr : IsBinary r) (k : Nat) {c : Cell} (hc : c.toNat ≤ 1) :
    IsBinary (passRemainder s.gf b r k c) := fun i => by
  rw [Memory.read_trim, read_polyAdd, read_polyShift, read_polyScale]
  refine xor_toNat_le_one (hr i) ?_
  split
  · exact h.mul_toNat_le_one hc (hb _)
  · decide

theorem isBinary_divLoop (db fuel : Nat) (q : List Cell) {r : List Cell} (hr : IsBinary r) :
    IsBinary (divLoop s.gf b db 1 fuel q r).2 := by
  induction fuel generalizing q r with
  | zero => exact hr
  | succ fuel ih =>
    rw [divLoop]
    split
    · exact hr
    · exact ih _ (h.isBinary_passRemainder hb hr _ (h.quot_one_toNat_le_one (hr _)))

/-- The remainder of a binary polynomial by a binary polynomial is binary. -/
theorem isBinary_polyDivmod {a : List Cell} (ha : IsBinary a) (hlead : Memory.read b (polyDeg b) ≠ 0) :
    IsBinary (polyDivmod s.gf a b).2 := by
  have hone : Memory.read (Memory.trim b) (polyDeg b) = 1 := by
    rw [Memory.read_trim]
    exact (cell_toNat_le_one_iff.1 (hb _)).resolve_left hlead
  rw [polyDivmod, hone]
  exact h.isBinary_divLoop (fun i => by rw [Memory.read_trim]; exact hb i) _ _ _
    fun i => by rw [Memory.read_trim]; exact ha i

end State.FieldReady

/-- Zero has remainder zero. -/
theorem read_polyDivmod_of_zero (F : GF) {a : List Cell} (ha : ∀ i, Memory.read a i = 0) (b : List Cell) (i : Nat) :
    Memory.read (polyDivmod F a b).2 i = 0 := by
  have htrim : Memory.trim a = [] :=
    List.length_eq_zero_iff.1 (Nat.le_zero.1 (Memory.trim_length_le_of_read fun i _ => ha i))
  have hloop : ∀ (b : List Cell) (db : Nat) (lb : Cell) (fuel : Nat), divLoop F b db lb fuel [] [] = ([], []) :=
    fun b db lb fuel => by cases fuel <;> rfl
  rw [polyDivmod, htrim, hloop]
  exact Memory.read_nil i

/-! ### What the parity is like -/

section Parity

variable {s : State} {r : Nat} (he : s.EncOK r)
include he

/-- In BCH mode the parity of bits by a binary generator is bits. -/
theorem State.EncOK.paritySymbols_binary (h : s.FieldReady) (hmode : s.mode = .bch)
    (hbits : ∀ i, r ≤ i → i < s.n.toNat → (s.coef .cw i).toNat ≤ 1) : IsBinary s.paritySymbols := by
  have hg : IsBinary s.arrays.g := by
    obtain ⟨-, -, -, -, -, hg⟩ := he
    exact hg hmode
  have hdata : IsBinary s.dataSymbols :=
    (bchCheck_eq_false_iff _ _).1 (he.dataCheck_eq_false_iff.2 fun _ => hbits) hmode
  have hdividend : IsBinary s.encoderDividend := fun i => by
    rw [State.encoderDividend, read_polyShift]
    split
    · exact hdata _
    · decide
  have hlead : Memory.read s.arrays.g (polyDeg s.arrays.g) ≠ 0 := by
    have hne := he.coef_degree_ne_zero
    rwa [← he.parityLength_eq] at hne
  intro j
  rw [State.read_paritySymbols]
  split
  · exact h.isBinary_polyDivmod hg hdividend hlead j
  · decide

theorem State.EncOK.paritySymbols_of_zero_data (hzero : ∀ i, i < s.n.toNat - r → s.coef .cw (s.dataAt r + i) = 0)
    (j : Nat) : Memory.read s.paritySymbols j = 0 := by
  have hdividend : ∀ i, Memory.read s.encoderDividend i = 0 := fun i => by
    rw [State.encoderDividend, read_polyShift, he.read_dataSymbols]
    split
    · split
      · exact hzero _ ‹_›
      · rfl
    · rfl
  rw [State.read_paritySymbols, read_polyDivmod_of_zero _ hdividend, ite_self]

/-- The word `ENC` leaves, parity in the low coefficients and data above, is a multiple of the generator. -/
theorem State.EncOK.encodeWord_multiple (h : s.Ready) : ∃ q, s.gf.IsPoly q ∧ ∀ i,
    (if i < r then s.encodeWord.coef .cw (s.parityAt r + i)
      else if i < s.n.toNat then s.coef .cw (s.dataAt r + (i - r)) else 0) =
      mulCoef s.gf (Memory.read q) (s.coef .g) i := by
  obtain ⟨q, hq, hmul⟩ := h.parity_and_data_multiple he
  refine ⟨q, hq, fun i => ?_⟩
  rw [← hmul i]
  split
  case isTrue hi => exact he.encodeWord_coef_parity hi
  case isFalse hi =>
    rw [he.read_dataSymbols]
    exact if_congr (by have := he.parity_bounds; omega) rfl rfl

end Parity

/-- Settles O36: the parity is the remainder of a division whose divisor is not 0, and its cells are all that is
written. -/
theorem encRule : Obligations.EncRule := by
  refine ⟨isWordOf_iff.2 rfl, immediateMustBeZero_of_formatZ (by decide), fun s hf => exec_of_needsField rfl hf,
    fun s hf => exec_enc_of_not_encOK hf, fun s r i he hmode hlow hhigh hbig => ?_, fun s r he hbits => ?_⟩
  · refine exec_of_fail (k := .operandRange) (he.firstFailing_enc.trans (if_pos ?_))
    rw [← Bool.not_eq_false, he.dataCheck_eq_false_iff]
    exact fun hall => absurd (hall hmode i hlow hhigh) (Nat.not_le.2 hbig)
  · refine ⟨_, he.exec_enc hbits, s.setArr_answered_keepsBut _ _ _, fun i => he.encodeWord_coef_of_outside,
      fun hinv => ?_⟩
    have h : s.Ready := ⟨hinv, he.fv⟩
    refine ⟨he.encodeWord_multiple h, fun hmode j hj => ?_, fun hzero j hj => ?_⟩
    · rw [State.answered_coef, he.encodeWord_coef_parity_bch hmode hj]
      exact he.paritySymbols_binary h.fieldReady hmode (hbits hmode) j
    · exact (he.encodeWord_coef_parity hj).trans (he.paritySymbols_of_zero_data hzero j)

end Sys2Proof.Machine

/-! ## A word of the encoder decodes clean

In BCH mode the received word is the multiple of `G` that `ENC` leaves. In RS mode it is a rotation of it: with
`N = ORD` and parity length `r`, `x^r` times the word is the multiple plus `x^N − 1` times the parity, and `x^N = 1` on
every power of α. -/

namespace Sys2Proof.Machine

/-! ### The received polynomial (44_decoder.md R201) -/

theorem State.read_received (s : State) (i : Nat) :
    Memory.read s.received i = if i < s.n.toNat then s.coef .cw i else 0 := Memory.read_take _ _ _

theorem State.Ready.polyEval_polyShift {s : State} (h : s.Ready) {p : List Cell} (hp : s.gf.IsPoly p) (k : Nat)
    {x : Cell} (hx : s.isElement x) :
    polyEval s.gf (polyShift k p) x = s.gf.mul (s.gf.pow x k) (polyEval s.gf p x) := by
  have hf := h.fieldReady
  have hpx := h.isElement_polyEval hp x
  induction k with
  | zero => rw [hf.pow_zero, GF.mul_comm, hf.mul_one hpx]; rfl
  | succ k ih =>
    rw [polyShift, List.replicate_succ, List.cons_append, ← polyShift, polyEval_cons, ih, hf.pow_succ hx,
      hf.mul_right_comm (hf.isElement_pow hx k) hpx hx]
    exact BitVec.xor_zero

section Received

variable {s : State} {r : Nat} (he : s.EncOK r)
include he

theorem State.EncOK.read_paritySymbols_above {j : Nat} (hj : r ≤ j) : Memory.read s.paritySymbols j = 0 :=
  Memory.read_of_length_le (he.length_paritySymbols.le.trans hj)

/-- In BCH mode `ENC` leaves `[parity | data]` (10_state.md R33). -/
theorem State.EncOK.received_bch (hmode : s.mode = .bch) (i : Nat) : Memory.read s.encodeWord.received i =
    if i < r then Memory.read s.paritySymbols i else Memory.read s.dataSymbols (i - r) := by
  have hn := s.n.isLt
  have hbounds := he.parity_bounds
  have hdata : s.dataAt r = r := if_pos hmode
  rw [s.encodeWord.read_received, he.read_dataSymbols, s.encodeWord_keepsSetup.n, hdata]
  obtain hlow | hhigh := Nat.lt_or_ge i r
  · rw [if_pos (by omega), if_pos hlow, he.encodeWord_coef_parity_bch hmode hlow]
  · rw [if_neg (show ¬i < r by omega), Nat.add_sub_cancel' hhigh]
    refine ite_congr (propext (by omega)) (fun hi => ?_) fun _ => rfl
    exact he.encodeWord_coef_of_outside (by omega) (by rw [State.parityAt_bch hmode]; omega)

/-- In RS mode `ENC` leaves `[data | parity]` (10_state.md R33). -/
theorem State.EncOK.received_rs (hmode : s.mode = .rs) (i : Nat) : Memory.read s.encodeWord.received i =
    if i < s.n.toNat - r then Memory.read s.dataSymbols i else Memory.read s.paritySymbols (i - (s.n.toNat - r)) := by
  have hn := s.n.isLt
  have hbounds := he.parity_bounds
  have hne : s.mode ≠ .bch := by rw [hmode]; decide
  have hparity : s.parityAt r = s.n.toNat - r := if_neg hne
  have hdata : s.dataAt r = 0 := if_neg hne
  rw [s.encodeWord.read_received, he.read_dataSymbols, s.encodeWord_keepsSetup.n, hdata, Nat.zero_add]
  obtain hlow | hhigh := Nat.lt_or_ge i (s.n.toNat - r)
  · rw [if_pos (by omega), if_pos hlow, if_pos hlow, he.encodeWord_coef_of_outside (by omega) (by omega)]
  · obtain ⟨j, rfl⟩ := Nat.exists_eq_add_of_le hhigh
    rw [if_neg (show ¬s.n.toNat - r + j < s.n.toNat - r by omega), Nat.add_sub_cancel_left]
    split
    · rw [← hparity, he.encodeWord_coef_parity (by omega)]
    · exact (he.read_paritySymbols_above (by omega)).symm

/-- In RS mode `x^r` times the received word is the multiple of the generator, with the parity moved up by `N`. -/
theorem State.EncOK.shift_received_rs (hmode : s.mode = .rs) (i : Nat) :
    Memory.read (polyShift r s.encodeWord.received) i =
      (if i < r then Memory.read s.paritySymbols i else Memory.read s.dataSymbols (i - r)) ^^^
        (Memory.read s.paritySymbols i ^^^ Memory.read (polyShift s.n.toNat s.paritySymbols) i) := by
  have hbounds := he.parity_bounds
  rw [read_polyShift, read_polyShift, he.received_rs hmode]
  obtain hlow | hhigh := Nat.lt_or_ge i r
  · rw [if_neg (by omega), if_pos hlow, if_neg (by omega), ← BitVec.xor_assoc, BitVec.xor_self]
    rfl
  · rw [if_pos hhigh, if_neg (show ¬i < r by omega), he.read_paritySymbols_above hhigh,
      show ∀ c : Cell, 0 ^^^ c = c from fun _ => BitVec.zero_xor]
    obtain hdata | hparity := Nat.lt_or_ge i s.n.toNat
    · rw [if_pos (by omega), if_neg (by omega)]
      exact BitVec.xor_zero.symm
    · have hnone : Memory.read s.dataSymbols (i - r) = 0 := by
        rw [he.read_dataSymbols, if_neg (by omega)]
      rw [if_neg (by omega), if_pos hparity, hnone, show i - r - (s.n.toNat - r) = i - s.n.toNat by omega]
      exact BitVec.zero_xor.symm

end Received

/-- Every root of the generator among the powers of α is a root of the word `ENC` leaves. -/
theorem State.Ready.polyEval_received_encodeWord {s : State} (h : s.Ready) {r : Nat} (he : s.EncOK r) {j : Nat}
    (hroot : s.valueAt .g (s.gf.alpha j) = 0) :
    polyEval s.gf s.encodeWord.received (s.gf.alpha j) = 0 := by
  have hf := h.fieldReady
  have hx := hf.isElement_alpha j
  have hwf : s.ArraysWf := by
    obtain ⟨hwf, -⟩ := h.inv
    exact hwf
  obtain ⟨q, hq, hmul⟩ := h.parity_and_data_multiple he
  have hmultiple : polyEval s.gf (polyMul s.gf q (s.arr .g)) (s.gf.alpha j) = 0 := by
    rw [h.polyEval_polyMul hq (h.isPoly .g) hx, s.polyEval_arr (hwf .g), hroot]
    exact GF.mul_zero _ _
  cases hmode : s.mode with
  | bch =>
    rw [← hmultiple]
    exact polyEval_congr _ (fun i => by rw [he.received_bch hmode, hmul, read_polyMul]; rfl) _
  | rs =>
    have hn : s.n.toNat = s.ord := by
      obtain ⟨-, -, -, -, hrs, -⟩ := he
      exact hrs hmode
    have hparity := h.isPoly_paritySymbols
    have hup : s.gf.IsPoly (polyShift s.n.toNat s.paritySymbols) := hparity.polyShift _
    have hreceived : s.gf.IsPoly s.encodeWord.received := (h.encodeWord.isPoly .cw).take _
    have hrotated : ∀ i, Memory.read (polyShift r s.encodeWord.received) i = Memory.read (polyAdd
        (polyMul s.gf q (s.arr .g)) (polyAdd s.paritySymbols (polyShift s.n.toNat s.paritySymbols))) i := fun i => by
      rw [he.shift_received_rs hmode, hmul, read_polyAdd, read_polyMul, read_polyAdd]
      rfl
    have hshift : polyEval s.gf (polyShift r s.encodeWord.received) (s.gf.alpha j) = 0 := by
      rw [polyEval_congr _ hrotated, h.polyEval_polyAdd (h.closed.isPoly_polyMul _ _) (hparity.polyAdd hup) hx,
        hmultiple, h.polyEval_polyAdd hparity hup hx, h.polyEval_polyShift hparity _ hx, hn,
        hf.pow_ord hx (hf.alpha_ne_zero j), GF.mul_comm, hf.mul_one (h.isElement_polyEval hparity _), BitVec.xor_self]
      rfl
    rw [h.polyEval_polyShift hreceived r hx, hf.pow_alpha] at hshift
    exact ((hf.mul_eq_zero_iff (hf.isElement_alpha _) (h.isElement_polyEval hreceived _)).1 hshift).resolve_left
      (hf.alpha_ne_zero _)

/-! ### The decoder on a word without errors (44_decoder.md R202, R231) -/

theorem firstFailing_wordChecks {s : State} (hd : s.DecOK) (hb : s.BitsOK) :
    firstFailing (s.decChecks ++ [s.needBits]) = none := by
  rw [firstFailing_append_of_none (s.firstFailing_decChecks.2.2 hd), firstFailing_eq_none_iff,
    List.forall_mem_singleton]
  exact s.needBits_eq_false_iff.2 hb

theorem State.syndPhase_sz (s : State) : s.syndPhase.status.sz = szFlag s.syndromes := rfl

theorem State.syndPhase_sz_eq_true_iff {s : State} : s.syndPhase.status.sz = true ↔
    ∀ j, j < 2 * s.t.toNat → polyEval s.gf s.received (s.gf.alpha (j + 1)) = 0 := by
  rw [State.syndPhase_sz, szFlag_eq_true_iff, State.syndromes, List.forall_mem_map]
  simp only [List.mem_range]

theorem KeepsSetup.gf {s s' : State} (h : KeepsSetup s s') : s'.gf = s.gf := by
  rw [State.gf, State.gf, h.m, h.exp, h.log]

theorem State.clearDecode_arr_cw (s : State) : s.clearDecode.arr .cw = s.arr .cw := by simp [State.clearDecode]

theorem State.syndPhase_arr_cw (s : State) : s.syndPhase.arr .cw = s.arr .cw := by simp [State.syndPhase]

/-- What `DECODE` clears first has no part in the syndromes. -/
theorem State.clearDecode_syndromes (s : State) : s.clearDecode.syndromes = s.syndromes := by
  have hreceived : ∀ u : State, u.received = (u.arr .cw).take u.n.toNat := fun _ => rfl
  have hkeep := s.clearDecode_keepsSetup
  rw [State.syndromes, State.syndromes, hreceived, hreceived, s.clearDecode_arr_cw, hkeep.n, hkeep.gf, hkeep.t]

/-- With zero syndromes `DECODE` ends after the syndromes. -/
theorem State.decodePhase_of_sz {s : State} (hsz : s.syndPhase.status.sz = true) :
    s.decodePhase.status.sz = true ∧ s.decodePhase.status.ok = true ∧ s.decodePhase.ecnt = 0 ∧
      s.decodePhase.arr .cw = s.arr .cw := by
  have hclear : s.clearDecode.syndPhase.status.sz = true := by
    rwa [State.syndPhase_sz, s.clearDecode_syndromes, ← State.syndPhase_sz]
  rw [State.decodePhase, if_pos hclear, State.setStatus_status, State.setStatus_arr, State.syndPhase_arr_cw,
    s.clearDecode_arr_cw]
  exact ⟨hclear, rfl, rfl, rfl⟩

/-- A word without errors is left as it is (44_decoder.md R231). -/
theorem exec_synd_decode_of_zero_syndromes {t : State} (hd : t.DecOK) (hb : t.BitsOK)
    (hzero : ∀ j, j < 2 * t.t.toNat → polyEval t.gf t.received (t.gf.alpha (j + 1)) = 0) :
    ∃ u v, exec .synd t = .next u ∧ u.status.sz = true ∧ u.res = 1 ∧ exec .decode t = .next v ∧ v.res = 1 ∧
      v.status.sz = true ∧ v.status.ok = true ∧ v.ecnt = 0 ∧ v.arr .cw = t.arr .cw := by
  have hpass := firstFailing_wordChecks hd hb
  have hsz := State.syndPhase_sz_eq_true_iff.2 hzero
  obtain ⟨hdsz, hok, hecnt, hcw⟩ := State.decodePhase_of_sz hsz
  exact ⟨_, _, exec_of_pass (i := .synd) hpass, hsz, congrArg flagValue hsz, exec_of_pass (i := .decode) hpass,
    congrArg flagValue hok, hdsz, hok, hecnt, hcw⟩

/-- In BCH mode the word `ENC` leaves consists of bits. -/
theorem State.EncOK.encodeWord_bitsOK {s : State} {r : Nat} (he : s.EncOK r) (h : s.FieldReady)
    (hbits : s.mode = .bch → ∀ i, r ≤ i → i < s.n.toNat → (s.coef .cw i).toNat ≤ 1) : s.encodeWord.BitsOK := by
  intro hmode i hi
  rw [s.encodeWord_keepsSetup.mode] at hmode
  rw [s.encodeWord_keepsSetup.n] at hi
  have hn := s.n.isLt
  obtain hlow | hhigh := Nat.lt_or_ge i r
  · rw [he.encodeWord_coef_parity_bch hmode hlow]
    exact he.paritySymbols_binary h hmode (hbits hmode) i
  · rw [he.encodeWord_coef_of_outside (by omega) (by rw [State.parityAt_bch hmode]; omega)]
    exact hbits hmode i hhigh hi

/-- Settles O48: the word is, up to a rotation, a multiple of the generator, so α to α^(2T) are roots of it. -/
theorem encodedWordDecodesClean : Obligations.EncodedWordDecodesClean := by
  intro s r hinv he hd hbits hroots
  have h : s.Ready := ⟨hinv, he.fv⟩
  obtain ⟨u, v, hdecodes⟩ := exec_synd_decode_of_zero_syndromes (t := s.encodeWord.answered 0) hd
    (he.encodeWord_bitsOK h.fieldReady hbits)
    fun j hj => h.polyEval_received_encodeWord he (hroots (j + 1) (by omega) hj)
  exact ⟨_, u, v, he.exec_enc hbits, hdecodes⟩

end Sys2Proof.Machine

/-! ## Linear recurrences over a field

The algebra of the decoder, over any field and away from the core's data: the registers that generate a sequence and
their least length (Massey), and the sequences of power sums `Σ e_i·x_i^(j+1)` that errors of values `e_i` at places
with locators `x_i` leave as syndromes (44_decoder.md R205, R212, R218). -/

namespace Sys2Proof.Decoding

open Polynomial

section Registers

variable {K : Type*} [Field K]

/-- The register with taps `Λ` and length `L` generates the coefficients of `S` below `k` (44_decoder.md R205). -/
structure Generates (S Λ : K[X]) (L k : Nat) : Prop where
  coeff_zero : Λ.coeff 0 = 1
  natDegree_le : Λ.natDegree ≤ L
  recurrence : ∀ q, L ≤ q → q < k → (Λ * S).coeff q = 0

variable {S Λ A B : K[X]} {L N k : Nat}

/-- Where the coefficients below place `k` that `A` reaches are 0, only the constant term of `A` counts. -/
theorem coeff_mul_of_vanishing (hA : A.natDegree ≤ N) (hB : ∀ q, k ≤ q + N → q < k → B.coeff q = 0) :
    (A * B).coeff k = A.coeff 0 * B.coeff k := by
  rw [coeff_mul]
  refine Finset.sum_eq_single (0, k) (fun p hp hne => ?_)
    fun h => absurd (Finset.HasAntidiagonal.mem_antidiagonal.2 (zero_add k)) h
  obtain ⟨i, j⟩ := p
  have hij : i + j = k := Finset.HasAntidiagonal.mem_antidiagonal.1 hp
  have hi : i ≠ 0 := fun hi => hne (by rw [hi] at hij ⊢; rw [← hij, zero_add])
  obtain hlt | hle := Nat.lt_or_ge N i
  · rw [coeff_eq_zero_of_natDegree_lt (hA.trans_lt hlt), zero_mul]
  · rw [hB j (by omega) (by omega), mul_zero]

/-- A factor with constant term 1 does not change which low coefficients are 0. -/
theorem coeff_eq_zero_of_mul (hA : A.coeff 0 = 1) (h : ∀ q, q < k → (A * B).coeff q = 0) {q : Nat} (hq : q < k) :
    B.coeff q = 0 := by
  induction q using Nat.strong_induction_on with
  | _ q ih =>
    have hmul := coeff_mul_of_vanishing (A := A) (B := B) (k := q) le_rfl fun j _ hj => ih j hj (hj.trans hq)
    rwa [h q hq, hA, one_mul, eq_comm] at hmul

theorem Generates.mono (h : Generates S Λ L (k + 1)) : Generates S Λ L k :=
  { h with recurrence := fun q hL hq => h.recurrence q hL (by omega) }

/-- Massey's bound: a register that continues where another one fails is longer than what is left. -/
theorem Generates.lt_add {Λ' : K[X]} (h : Generates S Λ L k) (hfail : (Λ * S).coeff k ≠ 0)
    (h' : Generates S Λ' N (k + 1)) : k < L + N := by
  by_contra hle
  have hone : (Λ' * (Λ * S)).coeff k = (Λ * S).coeff k := by
    rw [coeff_mul_of_vanishing h'.natDegree_le fun q hq hk => h.recurrence q (by omega) hk, h'.coeff_zero, one_mul]
  have hzero : (Λ * (Λ' * S)).coeff k = 0 := by
    rw [coeff_mul_of_vanishing h.natDegree_le fun q hq hk => h'.recurrence q (by omega) (by omega), h.coeff_zero,
      one_mul, h'.recurrence k (by omega) (by omega)]
  rw [mul_left_comm, hone] at hzero
  exact hfail hzero

/-- The variables of the loop of R204, over a field. -/
structure Register (K : Type*) [Field K] where
  lam : K[X]
  bp : K[X]
  l : Nat
  pos : Nat
  bd : K

/-- The correction that the next change of `LAM` is a multiple of. -/
noncomputable def Register.shifted (r : Register K) : K[X] := X ^ r.pos * r.bp

/-- What holds before iteration `k` (44_decoder.md R205): the bounds, that `LAM` generates the sequence so far, that no
shorter register does, and how the shifted `BP` fails where the next discrepancy will be. -/
structure Register.Inv (S : K[X]) (r : Register K) (k : Nat) : Prop where
  generates : Generates S r.lam r.l k
  minimal : ∀ Λ N, Generates S Λ N k → r.l ≤ N
  l_le : r.l ≤ k
  pos_pos : 1 ≤ r.pos
  pos_le : r.pos ≤ k + 1
  bd_ne_zero : r.bd ≠ 0
  shifted_natDegree_le : r.shifted.natDegree ≤ k + 1 - r.l
  shifted_recurrence : ∀ q, k + 1 - r.l ≤ q → q < k → (r.shifted * S).coeff q = 0
  shifted_coeff : 0 < r.l → (r.shifted * S).coeff k = r.bd

/-- Before the first iteration (44_decoder.md R204). -/
theorem Register.inv_start (S : K[X]) : Register.Inv S ⟨1, 1, 0, 1, 1⟩ 0 where
  generates := ⟨coeff_one_zero, natDegree_one.le, fun q _ hq => absurd hq (Nat.not_lt_zero q)⟩
  minimal _ _ _ := Nat.zero_le _
  l_le := le_rfl
  pos_pos := le_rfl
  pos_le := le_rfl
  bd_ne_zero := one_ne_zero
  shifted_natDegree_le := by simp [shifted]
  shifted_recurrence q _ hq := absurd hq (Nat.not_lt_zero q)
  shifted_coeff h := absurd h (lt_irrefl 0)

namespace Register.Inv

variable {r : Register K} (h : r.Inv S k)
include h

theorem shifted_coeff_zero : r.shifted.coeff 0 = 0 := by
  rw [shifted, coeff_X_pow_mul', if_neg (by have := h.pos_pos; omega)]

/-- The register after a change of `LAM` that cancels the discrepancy `d`. -/
theorem generates_change {d : K} (hd : (r.lam * S).coeff k = d) {L : Nat} (hl : r.l ≤ L) (hL : k + 1 - r.l ≤ L)
    (hpos : L ≤ k → 0 < r.l) : Generates S (r.lam - C (d / r.bd) * r.shifted) L (k + 1) where
  coeff_zero := by rw [coeff_sub, coeff_C_mul, h.shifted_coeff_zero, mul_zero, sub_zero, h.generates.coeff_zero]
  natDegree_le := (natDegree_sub_le _ _).trans (max_le (h.generates.natDegree_le.trans hl)
    ((natDegree_C_mul_le _ _).trans (h.shifted_natDegree_le.trans hL)))
  recurrence q hq hk := by
    rw [sub_mul, mul_assoc, coeff_sub, coeff_C_mul]
    obtain hlt | rfl := Nat.lt_succ_iff_lt_or_eq.1 hk
    · rw [h.generates.recurrence q (hl.trans hq) hlt, h.shifted_recurrence q (hL.trans hq) hlt, mul_zero, sub_zero]
    · rw [hd, h.shifted_coeff (hpos hq), div_mul_cancel₀ _ h.bd_ne_zero, sub_self]

/-- What an iteration that keeps `BP` does to the shifted `BP`. -/
theorem shifted_succ {lam : K[X]} (hgenerates : Generates S lam r.l (k + 1)) :
    Register.Inv S ⟨lam, r.bp, r.l, r.pos + 1, r.bd⟩ (k + 1) := by
  have hshifted : ∀ lam, (⟨lam, r.bp, r.l, r.pos + 1, r.bd⟩ : Register K).shifted = X * r.shifted := fun _ => by
    rw [shifted, shifted, pow_succ', mul_assoc]
  have hl := h.l_le
  refine ⟨hgenerates, fun Λ N hΛ => h.minimal Λ N hΛ.mono, by dsimp only; omega, by dsimp only; omega,
    Nat.succ_le_succ h.pos_le, h.bd_ne_zero, ?_, fun q hq hk => ?_, fun hpos => ?_⟩
  · have hdegree := h.shifted_natDegree_le
    rw [hshifted]
    refine natDegree_mul_le.trans ?_
    rw [natDegree_X]
    dsimp only
    omega
  · obtain ⟨q, rfl⟩ : ∃ p, q = p + 1 := ⟨q - 1, by dsimp only at hq; omega⟩
    rw [hshifted, mul_assoc, coeff_X_mul]
    exact h.shifted_recurrence q (by dsimp only at hq; omega) (by omega)
  · rw [hshifted, mul_assoc, coeff_X_mul]
    exact h.shifted_coeff hpos

/-- An iteration with discrepancy 0. -/
theorem of_zero (hd : (r.lam * S).coeff k = 0) : Register.Inv S { r with pos := r.pos + 1 } (k + 1) :=
  h.shifted_succ { h.generates with
    recurrence := fun q hq hk => (Nat.lt_succ_iff_lt_or_eq.1 hk).elim (h.generates.recurrence q hq) fun he => he ▸ hd }

/-- An iteration that changes `LAM` and keeps its length. -/
theorem of_change {d : K} (hd : (r.lam * S).coeff k = d) (hl : k < 2 * r.l) :
    Register.Inv S { r with lam := r.lam - C (d / r.bd) * r.shifted, pos := r.pos + 1 } (k + 1) :=
  h.shifted_succ (h.generates_change hd le_rfl (by omega) fun _ => by omega)

/-- An iteration that changes `LAM` and its length. -/
theorem of_lengthen {d : K} (hd : (r.lam * S).coeff k = d) (hne : d ≠ 0) (hl : 2 * r.l ≤ k) :
    Register.Inv S ⟨r.lam - C (d / r.bd) * r.shifted, r.lam, k + 1 - r.l, 1, d⟩ (k + 1) := by
  have hshifted : ∀ lam l, (⟨lam, r.lam, l, 1, d⟩ : Register K).shifted = X * r.lam := fun _ _ => by
    rw [shifted, pow_one]
  refine ⟨h.generates_change hd (by dsimp only; omega) le_rfl fun hlt => by dsimp only at hlt; omega, fun Λ N hΛ => ?_,
    by dsimp only; omega, le_rfl,
    by dsimp only; omega, hne, ?_, fun q hq hk => ?_, fun _ => ?_⟩
  · have hbound := h.generates.lt_add (hd ▸ hne) hΛ
    dsimp only
    omega
  · have hdegree := h.generates.natDegree_le
    rw [hshifted]
    refine natDegree_mul_le.trans ?_
    rw [natDegree_X]
    dsimp only
    omega
  · obtain ⟨q, rfl⟩ : ∃ p, q = p + 1 := ⟨q - 1, by dsimp only at hq; omega⟩
    rw [hshifted, mul_assoc, coeff_X_mul]
    exact h.generates.recurrence q (by dsimp only at hq; omega) (by omega)
  · rw [hshifted, mul_assoc, coeff_X_mul, hd]

end Register.Inv

end Registers

end Sys2Proof.Decoding

/-! ## Power sums of locators

Sequences `Σ e_i·x_i^(j+1)` over a finite set of places: which registers generate them, where a shortest register
vanishes, and how its derivative and its product with the sequence give the values `e_i` back (44_decoder.md R210,
R216, R218, R231). -/

namespace Sys2Proof.Decoding

open Polynomial

section PowerSums

variable {K ι : Type*} [Field K] {P : Finset ι} {x : ι → K}

/-- Entry `j` of the sequence that values `e` at the places `P` with locators `x` leave. -/
def powerSum (P : Finset ι) (x e : ι → K) (j : Nat) : K := ∑ i ∈ P, e i * x i ^ (j + 1)

/-- Nonzero locators, no two of them equal. -/
structure Locators (P : Finset ι) (x : ι → K) : Prop where
  injOn : Set.InjOn x P
  ne_zero : ∀ i ∈ P, x i ≠ 0

theorem Locators.injOn_inv (hx : Locators P x) : Set.InjOn (fun i => (x i)⁻¹) P :=
  fun _ hi _ hj hij => hx.injOn hi hj (inv_injective hij)

/-- The product of the `1 − x_i·X`. -/
noncomputable def locatorPoly (P : Finset ι) (x : ι → K) : K[X] := ∏ i ∈ P, (1 - C (x i) * X)

/-- As many consecutive sums of powers as there are places determine the values: Vandermonde's matrix is regular. -/
theorem eq_zero_of_sum_mul_pow {c : ι → K} (hx : Set.InjOn x P) (h : ∀ a, a < P.card → ∑ i ∈ P, c i * x i ^ a = 0)
    {i : ι} (hi : i ∈ P) : c i = 0 := by
  classical
  have hbasis : ∑ j ∈ P, c j * (Lagrange.basis P x i).eval (x j) = 0 := by
    have hcard : 0 < P.card := Finset.card_pos.2 ⟨i, hi⟩
    have hdegree : (Lagrange.basis P x i).natDegree < P.card := by
      rw [natDegree_lt_iff_degree_lt (Lagrange.basis_ne_zero hx hi), Lagrange.degree_basis hx hi]
      exact_mod_cast Nat.sub_lt hcard one_pos
    calc ∑ j ∈ P, c j * (Lagrange.basis P x i).eval (x j)
        = ∑ j ∈ P, ∑ a ∈ Finset.range P.card, (Lagrange.basis P x i).coeff a * (c j * x j ^ a) := by
          refine Finset.sum_congr rfl fun j _ => ?_
          rw [eval_eq_sum_range' hdegree, Finset.mul_sum]
          exact Finset.sum_congr rfl fun a _ => mul_left_comm _ _ _
      _ = ∑ a ∈ Finset.range P.card, (Lagrange.basis P x i).coeff a * ∑ j ∈ P, c j * x j ^ a := by
          rw [Finset.sum_comm]
          exact Finset.sum_congr rfl fun a _ => (Finset.mul_sum _ _ _).symm
      _ = 0 := Finset.sum_eq_zero fun a ha => by rw [h a (Finset.mem_range.1 ha), mul_zero]
  rwa [Finset.sum_eq_single i (fun j hj hne => by rw [Lagrange.eval_basis_of_ne hne.symm hj, mul_zero])
    fun hno => absurd hi hno, Lagrange.eval_basis_self hx hi, mul_one] at hbasis

/-- Values that leave the same sequence, as long as there are places, are the same. -/
theorem eq_of_powerSum_eq (hx : Locators P x) {e e' : ι → K} {n : Nat} (hn : P.card ≤ n)
    (h : ∀ j, j < n → powerSum P x e j = powerSum P x e' j) {i : ι} (hi : i ∈ P) : e i = e' i := by
  have hzero : (e i - e' i) * x i = 0 :=
    eq_zero_of_sum_mul_pow (c := fun i => (e i - e' i) * x i) hx.injOn (fun a ha => by
      rw [← sub_eq_zero.2 (h a (by omega)), powerSum, powerSum, ← Finset.sum_sub_distrib]
      exact Finset.sum_congr rfl fun j _ => by ring) hi
  exact sub_eq_zero.1 ((mul_eq_zero.1 hzero).resolve_right (hx.ne_zero i hi))

variable {S Λ : K[X]} {e : ι → K} {L n : Nat}

/-- What a register makes of power sums, by its values at the inverse locators. -/
theorem coeff_mul_powerSum (hx : Locators P x) {q : Nat} (hS : ∀ j, j ≤ q → S.coeff j = powerSum P x e j)
    (hdegree : Λ.natDegree ≤ q) : (Λ * S).coeff q = ∑ i ∈ P, e i * x i ^ (q + 1) * Λ.eval (x i)⁻¹ := by
  calc (Λ * S).coeff q
      = ∑ a ∈ Finset.range (q + 1), ∑ i ∈ P, Λ.coeff a * (e i * x i ^ (q - a + 1)) := by
        rw [coeff_mul, Finset.Nat.sum_antidiagonal_eq_sum_range_succ fun a b => Λ.coeff a * S.coeff b]
        exact Finset.sum_congr rfl fun a _ => by rw [hS _ (Nat.sub_le q a), powerSum, Finset.mul_sum]
    _ = ∑ i ∈ P, ∑ a ∈ Finset.range (q + 1), e i * x i ^ (q + 1) * (Λ.coeff a * (x i)⁻¹ ^ a) := by
        rw [Finset.sum_comm]
        refine Finset.sum_congr rfl fun i hi => Finset.sum_congr rfl fun a ha => ?_
        have hsplit : x i ^ (q + 1) = x i ^ (q - a + 1) * x i ^ a := by
          rw [← pow_add]
          congr 1
          have := Finset.mem_range.1 ha
          omega
        have hcancel : x i ^ a * (x i)⁻¹ ^ a = 1 := by
          rw [← mul_pow, mul_inv_cancel₀ (hx.ne_zero i hi), one_pow]
        linear_combination (-(Λ.coeff a * (x i)⁻¹ ^ a * e i)) * hsplit
          - (Λ.coeff a * e i * x i ^ (q - a + 1)) * hcancel
    _ = _ := Finset.sum_congr rfl fun i _ => by
        rw [← Finset.mul_sum, eval_eq_sum_range' (Nat.lt_succ_of_le hdegree)]

/-! ### A register that generates power sums -/

theorem locatorPoly_coeff_zero (P : Finset ι) (x : ι → K) : (locatorPoly P x).coeff 0 = 1 := by
  simp [locatorPoly, coeff_zero_eq_eval_zero, eval_prod]

theorem locatorPoly_natDegree_le (P : Finset ι) (x : ι → K) : (locatorPoly P x).natDegree ≤ P.card := by
  refine (natDegree_prod_le _ _).trans ((Finset.sum_le_card_nsmul P _ 1 fun i _ => ?_).trans (by simp))
  refine (natDegree_sub_le _ _).trans ?_
  rw [natDegree_one]
  exact max_le (Nat.zero_le 1) ((natDegree_C_mul_le _ _).trans natDegree_X_le)

theorem eval_locatorPoly (hx : Locators P x) {i : ι} (hi : i ∈ P) : (locatorPoly P x).eval (x i)⁻¹ = 0 := by
  rw [locatorPoly, eval_prod]
  exact Finset.prod_eq_zero hi (by simp [hx.ne_zero i hi])

/-- Power sums are generated by a register as long as there are places. -/
theorem generates_locatorPoly (hx : Locators P x) (hS : ∀ j, j < n → S.coeff j = powerSum P x e j) :
    Generates S (locatorPoly P x) P.card n where
  coeff_zero := locatorPoly_coeff_zero P x
  natDegree_le := locatorPoly_natDegree_le P x
  recurrence q hq hn := by
    rw [coeff_mul_powerSum hx (fun j hj => hS j (by omega)) ((locatorPoly_natDegree_le P x).trans hq)]
    exact Finset.sum_eq_zero fun i hi => by rw [eval_locatorPoly hx hi, mul_zero]

/-- A register that generates a long enough sequence of power sums vanishes at every inverse locator of a nonzero
value. -/
theorem eval_eq_zero_of_generates (h : Generates S Λ L n) (hx : Locators P x)
    (hS : ∀ j, j < n → S.coeff j = powerSum P x e j) (he : ∀ i ∈ P, e i ≠ 0) (hn : L + P.card ≤ n) {i : ι}
    (hi : i ∈ P) : Λ.eval (x i)⁻¹ = 0 := by
  have hzero : e i * x i ^ (L + 1) * Λ.eval (x i)⁻¹ = 0 :=
    eq_zero_of_sum_mul_pow (c := fun i => e i * x i ^ (L + 1) * Λ.eval (x i)⁻¹) hx.injOn (fun a ha => by
      rw [← h.recurrence (L + a) (by omega) (by omega), coeff_mul_powerSum hx (fun j hj => hS j (by omega))
        (h.natDegree_le.trans (by omega))]
      exact Finset.sum_congr rfl fun j _ => by ring) hi
  exact (mul_eq_zero.1 hzero).resolve_left (mul_ne_zero (he i hi) (pow_ne_zero _ (hx.ne_zero i hi)))

/-! ### Registers that vanish at as many places as they are long -/

section Roots

variable (hx : Locators P x) (hroot : ∀ i ∈ P, Λ.eval (x i)⁻¹ = 0)
include hx hroot

theorem eq_zero_of_roots (hdegree : Λ.natDegree < P.card) : Λ = 0 := by
  by_contra hne
  refine hne (eq_zero_of_degree_lt_of_eval_index_eq_zero P hx.injOn_inv ?_ hroot)
  exact (natDegree_lt_iff_degree_lt hne).1 hdegree

theorem card_le_natDegree (hne : Λ ≠ 0) : P.card ≤ Λ.natDegree := by
  by_contra hlt
  exact hne (eq_zero_of_roots hx hroot (Nat.lt_of_not_le hlt))

/-- The other factor at one of the roots: it vanishes at the other roots, and there it is the derivative. -/
theorem exists_cofactor (hne : Λ ≠ 0) {i : ι} (hi : i ∈ P) : ∃ R : K[X], Λ = (X - C (x i)⁻¹) * R ∧ R ≠ 0 ∧
    R.natDegree < Λ.natDegree ∧ (∀ j ∈ P, j ≠ i → R.eval (x j)⁻¹ = 0) ∧
    (derivative Λ).eval (x i)⁻¹ = R.eval (x i)⁻¹ := by
  obtain ⟨R, hR⟩ := dvd_iff_isRoot.2 (hroot i hi)
  have hRne : R ≠ 0 := fun h => hne (by rw [hR, h, mul_zero])
  refine ⟨R, hR, hRne, ?_, fun j hj hji => ?_, by rw [hR, derivative_mul]; simp⟩
  · rw [hR, natDegree_mul (X_sub_C_ne_zero _) hRne, natDegree_X_sub_C]
    omega
  · have hzero := hroot j hj
    rw [hR, eval_mul, eval_sub, eval_X, eval_C] at hzero
    exact (mul_eq_zero.1 hzero).resolve_left
      (sub_ne_zero.2 fun h => hji (hx.injOn hj hi (inv_injective h)))

variable (hzero : Λ.coeff 0 = 1) (hdegree : Λ.natDegree ≤ P.card)
include hzero hdegree

omit hx hroot hdegree in
theorem ne_zero_of_coeff_zero : Λ ≠ 0 := fun h => by simp [h] at hzero

/-- There are no further roots. -/
theorem exists_of_eval_eq_zero {y : K} (hy : Λ.eval y⁻¹ = 0) : ∃ i ∈ P, y = x i := by
  by_contra! hno
  have hne := ne_zero_of_coeff_zero hzero
  obtain ⟨R, hR⟩ := dvd_iff_isRoot.2 hy
  have hRne : R ≠ 0 := fun h => hne (by rw [hR, h, mul_zero])
  refine hRne (eq_zero_of_roots hx (fun i hi => ?_) ?_)
  · have hi0 := hroot i hi
    rw [hR, eval_mul, eval_sub, eval_X, eval_C] at hi0
    exact (mul_eq_zero.1 hi0).resolve_left (sub_ne_zero.2 fun h => hno i hi (inv_injective h).symm)
  · rw [hR, natDegree_mul (X_sub_C_ne_zero _) hRne, natDegree_X_sub_C] at hdegree
    omega

/-- Every root is simple, so no Forney denominator is 0 (44_decoder.md R231). -/
theorem eval_derivative_ne_zero {i : ι} (hi : i ∈ P) : (derivative Λ).eval (x i)⁻¹ ≠ 0 := by
  obtain ⟨R, -, hRne, hlt, hother, hself⟩ := exists_cofactor hx hroot (ne_zero_of_coeff_zero hzero) hi
  rw [hself]
  intro h
  refine hRne (eq_zero_of_roots hx (fun j hj => ?_) (hlt.trans_le hdegree))
  obtain rfl | hji := eq_or_ne j i
  · exact h
  · exact hother j hj hji

end Roots

/-! ### The values (44_decoder.md R216, R218) -/

/-- The sum of the first `n` powers of `c·X`. -/
noncomputable def geometric (n : Nat) (c : K) : K[X] := ∑ a ∈ Finset.range n, (C c * X) ^ a

theorem geometric_coeff {q : Nat} (hq : q < n) (c : K) : (geometric n c).coeff q = c ^ q := by
  rw [geometric, finsetSum_coeff, Finset.sum_eq_single q]
  · rw [mul_pow, ← C_pow, coeff_C_mul_X_pow, if_pos rfl]
  · intro a _ hne
    rw [mul_pow, ← C_pow, coeff_C_mul_X_pow, if_neg hne.symm]
  · exact fun h => absurd (Finset.mem_range.2 hq) h

section CharTwo

variable [CharP K 2]

/-- Forney's formula: with `Ω` the low part of `Λ·S`, the quotients of `Ω` by the derivative of `Λ` at the inverse
locators are values that leave the sequence. -/
theorem coeff_eq_powerSum_of_forney (h : Generates S Λ P.card n) (hx : Locators P x)
    (hroot : ∀ i ∈ P, Λ.eval (x i)⁻¹ = 0) {Ω : K[X]} (hΩ : ∀ q, q < n → Ω.coeff q = (Λ * S).coeff q)
    (hΩdegree : ∀ q, P.card ≤ q → Ω.coeff q = 0)
    (he : ∀ i ∈ P, e i * (derivative Λ).eval (x i)⁻¹ = Ω.eval (x i)⁻¹) {q : Nat} (hq : q < n) : S.coeff q = powerSum P x e q := by
  choose! R hR hRne hRlt hRother hRself using fun i hi =>
    exists_cofactor hx hroot (ne_zero_of_coeff_zero h.coeff_zero) (i := i) hi
  have hinterpolate : ∑ i ∈ P, C (e i) * R i = Ω := by
    refine eq_of_degrees_lt_of_eval_index_eq P hx.injOn_inv ((degree_lt_iff_coeff_zero _ _).2 fun m hm => ?_)
      ((degree_lt_iff_coeff_zero _ _).2 hΩdegree) fun j hj => ?_
    · rw [finsetSum_coeff]
      refine Finset.sum_eq_zero fun i hi => ?_
      have hlt : (R i).natDegree < m := (hRlt i hi).trans_le (h.natDegree_le.trans hm)
      rw [coeff_C_mul, coeff_eq_zero_of_natDegree_lt hlt, mul_zero]
    · rw [eval_finsetSum, Finset.sum_eq_single j, eval_mul, eval_C, ← hRself j hj, he j hj]
      · intro i hi hne
        rw [eval_mul, hRother i hi j hj hne.symm, mul_zero]
      · exact fun hno => absurd hj hno
  have hproduct : Λ * ∑ i ∈ P, C (e i * x i) * geometric n (x i) =
      X ^ n * ∑ i ∈ P, C (e i) * R i * C (x i) ^ n - Ω := by
    rw [← hinterpolate, Finset.mul_sum, Finset.mul_sum, ← Finset.sum_sub_distrib]
    refine Finset.sum_congr rfl fun i hi => ?_
    have hsum : geometric n (x i) * (C (x i) * X - 1) = (C (x i) * X) ^ n - 1 := geom_sum_mul _ _
    have hunit : C (x i) * C (x i)⁻¹ = (1 : K[X]) := by rw [← C_mul, mul_inv_cancel₀ (hx.ne_zero i hi), C_1]
    rw [C_mul]
    linear_combination (C (e i) * C (x i) * geometric n (x i)) * hR i hi + (C (e i) * R i) * hsum
      - (C (e i) * R i * geometric n (x i)) * hunit
  have hpowerSum : ∀ q, q < n →
      (∑ i ∈ P, C (e i * x i) * geometric n (x i)).coeff q = powerSum P x e q := fun q hq => by
    rw [finsetSum_coeff, powerSum]
    exact Finset.sum_congr rfl fun i _ => by rw [coeff_C_mul, geometric_coeff hq, pow_succ]; ring
  have hdifference := coeff_eq_zero_of_mul (B := S - ∑ i ∈ P, C (e i * x i) * geometric n (x i)) h.coeff_zero
    (fun q hq => by
      rw [mul_sub, hproduct, coeff_sub, coeff_sub, coeff_X_pow_mul', if_neg (by omega), zero_sub, CharTwo.neg_eq,
        hΩ q hq, sub_self]) hq
  rwa [coeff_sub, sub_eq_zero, hpowerSum q hq] at hdifference

/-- Where the sequence squares as binary words' syndromes do, and no register is shorter than there are places, every
value is 1. -/
theorem eq_one_of_squares (hx : Locators P x) {t : Nat} (hS : ∀ j, j < 2 * t → S.coeff j = powerSum P x e j)
    (hsquare : ∀ j, j < t → S.coeff (2 * j + 1) = S.coeff j ^ 2) (hcard : P.card ≤ t)
    (hminimal : ∀ Λ N, Generates S Λ N (2 * t) → P.card ≤ N) {i : ι} (hi : i ∈ P) : e i = 1 := by
  classical
  have hself : e i ^ 2 = e i := by
    have hzero : (e i ^ 2 - e i) * (x i) ^ 2 = 0 :=
      eq_zero_of_sum_mul_pow (c := fun i => (e i ^ 2 - e i) * x i ^ 2) (x := fun i => x i ^ 2) (P := P)
        (fun j hj k hk hjk => hx.injOn hj hk (frobenius_inj K 2 hjk)) (fun a ha => by
          have hsum := hsquare a (by omega)
          rw [hS _ (by omega), hS _ (by omega), powerSum, powerSum, CharTwo.sum_sq, ← sub_eq_zero,
            ← Finset.sum_sub_distrib] at hsum
          rw [← neg_eq_zero, ← hsum, ← Finset.sum_neg_distrib]
          exact Finset.sum_congr rfl fun j _ => by ring) hi
    exact sub_eq_zero.1 ((mul_eq_zero.1 hzero).resolve_right (pow_ne_zero 2 (hx.ne_zero i hi)))
  have hne : e i ≠ 0 := fun hzero => by
    have hfilter : ∀ j, powerSum P x e j = powerSum (P.filter fun i => e i ≠ 0) x e j := fun j => by
      rw [powerSum, powerSum, Finset.sum_filter_of_ne]
      rintro i - h he
      exact h (by rw [he, zero_mul])
    have hx' : Locators (P.filter fun i => e i ≠ 0) x :=
      ⟨hx.injOn.mono (Finset.coe_subset.2 (Finset.filter_subset _ _)),
        fun i hi => hx.ne_zero i (Finset.mem_of_mem_filter i hi)⟩
    have hle := hminimal _ _ (generates_locatorPoly hx' fun j hj => (hS j hj).trans (hfilter j))
    exact absurd hle (Nat.not_le.2 (Finset.card_lt_card (Finset.filter_ssubset.2 ⟨i, hi, not_not.2 hzero⟩)))
  exact mul_right_cancel₀ hne (by rw [← pow_two, hself, one_mul])

end CharTwo

end PowerSums

end Sys2Proof.Decoding

/-! ## The field engine as a field

The elements of a state with a field, with XOR and the table product, are a field in Mathlib's sense. A `FieldReading`
takes cells to it, lists of cells to polynomials over it, and the functions over the tables to its operations; what is proved
of polynomials over a field then holds of the core's arrays. -/

namespace Sys2Proof.Machine

open Polynomial

/-! ### The field of the elements -/

/-- An element of the field of a state. -/
@[ext] structure Element (s : State) where
  cell : Cell
  isElement : s.isElement cell

namespace Element

variable {s : State} (h : s.Ready)

/-- The sum of R126. -/
def add (a b : Element s) : Element s := ⟨a.cell ^^^ b.cell, GF.elem_gfAdd (F := s.gf) a.isElement b.isElement⟩

include h in
/-- The product of R127. -/
def mul (a b : Element s) : Element s := ⟨s.gf.mul a.cell b.cell, h.closed.elem_mul _ _⟩

include h in
/-- The inverse of R129, with 0 for its own inverse. -/
def inv (a : Element s) : Element s :=
  if ha : a.cell = 0 then a else ⟨s.gf.inv a.cell, h.fieldReady.isElement_inv a.isElement ha⟩

theorem cell_inv {a : Element s} (ha : a.cell ≠ 0) : (inv h a).cell = s.gf.inv a.cell := by rw [inv, dif_neg ha]

theorem inv_zero : inv h ⟨0, s.isElement_zero⟩ = ⟨0, s.isElement_zero⟩ := dif_pos rfl

include h in
/-- The field of R141. -/
@[reducible] noncomputable def field : Field (Element s) :=
  have hf := h.fieldReady
  letI : Add (Element s) := ⟨add⟩
  letI : Mul (Element s) := ⟨mul h⟩
  letI : Neg (Element s) := ⟨id⟩
  letI : Inv (Element s) := ⟨inv h⟩
  letI : Zero (Element s) := ⟨⟨0, s.isElement_zero⟩⟩
  letI : One (Element s) := ⟨⟨1, hf.isElement_one⟩⟩
  Field.ofMinimalAxioms (Element s)
    (fun a b c => Element.ext (BitVec.xor_assoc a.cell b.cell c.cell))
    (fun a => Element.ext (BitVec.zero_xor (x := a.cell)))
    (fun a => Element.ext (BitVec.xor_self (x := a.cell)))
    (fun a b c => Element.ext (hf.mul_assoc a.isElement b.isElement c.isElement))
    (fun a b => Element.ext (s.gf.mul_comm a.cell b.cell))
    (fun a => Element.ext ((s.gf.mul_comm 1 a.cell).trans (hf.mul_one a.isElement)))
    (fun a ha => Element.ext (by
      have hne : a.cell ≠ 0 := fun hzero => ha (Element.ext hzero)
      exact (congrArg _ (cell_inv h hne)).trans (hf.mul_inv_cancel a.isElement hne)))
    (inv_zero h)
    (fun a b c => Element.ext (hf.mul_xor a.isElement b.isElement c.isElement))
    ⟨⟨0, s.isElement_zero⟩, ⟨1, hf.isElement_one⟩,
      fun heq => absurd (congrArg cell heq) (show (0 : Cell) ≠ 1 by decide)⟩

end Element

/-! ### Readings -/

/-- A map of cells to a field that is a homomorphism, and injective, on the elements. -/
structure FieldReading (F : GF) (K : Type) [Field K] where
  val : Cell → K
  closed : F.Closed
  val_one : val 1 = 1
  val_xor : ∀ {a b}, F.Elem a → F.Elem b → val (a ^^^ b) = val a + val b
  val_mul : ∀ {a b}, F.Elem a → F.Elem b → val (F.mul a b) = val a * val b
  val_injective : ∀ {a b}, F.Elem a → F.Elem b → val a = val b → a = b

open Classical in
/-- A cell as an element, 0 where it is none. -/
noncomputable def Element.ofCell (s : State) (a : Cell) : Element s :=
  if ha : s.isElement a then ⟨a, ha⟩ else ⟨0, s.isElement_zero⟩

theorem Element.ofCell_of_isElement {s : State} {a : Cell} (ha : s.isElement a) : Element.ofCell s a = ⟨a, ha⟩ :=
  dif_pos ha

/-- The elements read as themselves. -/
noncomputable def Element.reading {s : State} (h : s.Ready) : @FieldReading s.gf (Element s) (Element.field h) :=
  letI := Element.field h
  { val := Element.ofCell s
    closed := h.closed
    val_one := Element.ofCell_of_isElement h.fieldReady.isElement_one
    val_xor := fun {a b} ha hb => by
      have hab : s.isElement (a ^^^ b) := GF.elem_gfAdd ha hb
      rw [Element.ofCell_of_isElement ha, Element.ofCell_of_isElement hb, Element.ofCell_of_isElement hab]
      rfl
    val_mul := fun {a b} ha hb => by
      have hab : s.isElement (s.gf.mul a b) := h.closed.elem_mul a b
      rw [Element.ofCell_of_isElement ha, Element.ofCell_of_isElement hb, Element.ofCell_of_isElement hab]
      rfl
    val_injective := fun {a b} ha hb hab => by
      rw [Element.ofCell_of_isElement ha, Element.ofCell_of_isElement hb] at hab
      exact congrArg Element.cell hab }

namespace FieldReading

variable {F : GF} {K : Type} [Field K] (ψ : FieldReading F K)

@[simp] theorem val_zero : ψ.val 0 = 0 := by
  have hzero : ψ.val 0 = ψ.val 0 + ψ.val 0 := ψ.val_xor F.elem_zero F.elem_zero
  exact left_eq_add.1 hzero

include ψ in
theorem charTwo : CharP K 2 := by
  have htwo : (1 : K) + 1 = 0 := by
    rw [← ψ.val_one, ← ψ.val_xor ψ.closed.elem_one ψ.closed.elem_one, BitVec.xor_self]
    exact ψ.val_zero
  exact CharTwo.of_one_ne_zero_of_two_eq_zero one_ne_zero (by rw [← one_add_one_eq_two, htwo])

theorem val_eq_zero_iff {a : Cell} (ha : F.Elem a) : ψ.val a = 0 ↔ a = 0 :=
  ⟨fun h => ψ.val_injective ha F.elem_zero (h.trans ψ.val_zero.symm), fun h => h ▸ ψ.val_zero⟩

theorem val_xorSum {f : Nat → Cell} (hf : ∀ i, F.Elem (f i)) (n : Nat) :
    ψ.val (xorSum n f) = ∑ i ∈ Finset.range n, ψ.val (f i) := by
  induction n with
  | zero => exact ψ.val_zero
  | succ n ih => rw [xorSum, ψ.val_xor (GF.elem_xorSum hf n) (hf n), ih, Finset.sum_range_succ]

/-! ### Lists of cells as polynomials -/

/-- The polynomial with the cells of a list as coefficients (00_scope.md R12). -/
noncomputable def poly (p : List Cell) : K[X] := ∑ i ∈ Finset.range p.length, C (ψ.val (Memory.read p i)) * X ^ i

@[simp] theorem poly_coeff (p : List Cell) (i : Nat) : (ψ.poly p).coeff i = ψ.val (Memory.read p i) := by
  rw [poly, finsetSum_coeff]
  simp only [coeff_C_mul_X_pow, Finset.sum_ite_eq, Finset.mem_range]
  split
  · rfl
  · rw [Memory.read_of_length_le (by omega), ψ.val_zero]

theorem poly_congr {p q : List Cell} (h : ∀ i, Memory.read p i = Memory.read q i) : ψ.poly p = ψ.poly q :=
  Polynomial.ext fun i => by rw [poly_coeff, poly_coeff, h]

theorem read_eq_zero_of_natDegree_lt {p : List Cell} (hp : F.IsPoly p) {i : Nat} (hi : (ψ.poly p).natDegree < i) :
    Memory.read p i = 0 :=
  (ψ.val_eq_zero_iff (hp.read i)).1 (by rw [← poly_coeff, coeff_eq_zero_of_natDegree_lt hi])

section Operations

variable {p q : List Cell} (hp : F.IsPoly p)

theorem poly_one : ψ.poly [1] = 1 := by
  rw [poly, List.length_singleton, Finset.sum_range_one, Memory.read_cons_zero, ψ.val_one, C_1, pow_zero, mul_one]

theorem poly_polyShift (k : Nat) : ψ.poly (polyShift k p) = X ^ k * ψ.poly p := by
  ext i
  rw [poly_coeff, read_polyShift, coeff_X_pow_mul']
  split
  · rw [poly_coeff]
  · exact ψ.val_zero

include hp

theorem poly_polyAdd (hq : F.IsPoly q) : ψ.poly (polyAdd p q) = ψ.poly p + ψ.poly q := by
  ext i
  rw [poly_coeff, read_polyAdd, ψ.val_xor (hp.read i) (hq.read i), coeff_add, poly_coeff, poly_coeff]

theorem poly_polyScale {c : Cell} (hc : F.Elem c) : ψ.poly (polyScale F c p) = C (ψ.val c) * ψ.poly p := by
  ext i
  rw [poly_coeff, read_polyScale, ψ.val_mul hc (hp.read i), coeff_C_mul, poly_coeff]

theorem poly_mul_coeff (hq : F.IsPoly q) (i : Nat) :
    (ψ.poly p * ψ.poly q).coeff i = ψ.val (mulCoef F (Memory.read p) (Memory.read q) i) := by
  rw [mulCoef, ψ.val_xorSum (fun j => ψ.closed.elem_mul _ _), coeff_mul,
    Finset.Nat.sum_antidiagonal_eq_sum_range_succ fun a b => (ψ.poly p).coeff a * (ψ.poly q).coeff b]
  exact Finset.sum_congr rfl fun j _ => by rw [ψ.val_mul (hp.read j) (hq.read _), poly_coeff, poly_coeff]

omit hp in
/-- The odd coefficients are what the derivative keeps in characteristic two (42_polynomial.md R158). -/
theorem poly_polyDeriv : ψ.poly (polyDeriv p) = derivative (ψ.poly p) := by
  have := ψ.charTwo
  ext i
  rw [poly_coeff, read_polyDeriv, derivCoef, coeff_derivative, poly_coeff, ← Nat.cast_succ]
  split
  case isTrue heven =>
    obtain ⟨j, rfl⟩ : ∃ j, i = 2 * j := ⟨i / 2, by omega⟩
    rw [Nat.cast_succ, Nat.cast_mul, CharP.cast_eq_zero K 2, zero_mul, zero_add, mul_one]
  case isFalse hodd =>
    rw [(CharP.cast_eq_zero_iff K 2 _).2 (by omega), mul_zero]
    exact ψ.val_zero

theorem poly_eval {x : Cell} (hx : F.Elem x) : (ψ.poly p).eval (ψ.val x) = ψ.val (polyEval F p x) := by
  induction p with
  | nil => exact eval_zero.trans ψ.val_zero.symm
  | cons c p ih =>
    obtain ⟨hc, hp⟩ := GF.isPoly_cons.1 hp
    rw [polyEval_cons, ψ.val_xor (ψ.closed.elem_mul _ _) hc, ψ.val_mul (ψ.closed.elem_polyEval hp x) hx, ← ih hp]
    rw [poly, List.length_cons, Finset.sum_range_succ', eval_add, eval_finsetSum, poly, eval_finsetSum, Finset.sum_mul]
    simp only [Memory.read_cons_zero, Memory.read_cons_succ, eval_mul, eval_C, eval_pow, eval_X, pow_succ, mul_assoc,
      pow_zero, mul_one]

end Operations

/-- The value of `p` at `x`, by its coefficients below `k` (44_decoder.md R201). -/
theorem val_horner {p : Nat → Cell} {k : Nat} (hp : ∀ i, i < k → F.Elem (p i)) {x : Cell} (hx : F.Elem x) :
    ψ.val (horner F p k x) = ∑ i ∈ Finset.range k, ψ.val (p i) * ψ.val x ^ i := by
  have hloop : ∀ (k : Nat) (acc : Cell), (∀ i, i < k → F.Elem (p i)) → F.Elem acc →
      ψ.val (hornerLoop F p x k acc) = ψ.val acc * ψ.val x ^ k + ∑ i ∈ Finset.range k, ψ.val (p i) * ψ.val x ^ i := by
    intro k
    induction k with
    | zero => simp [hornerLoop]
    | succ k ih =>
      intro acc hp hacc
      have hmul := ψ.closed.elem_mul acc x
      have hnext : F.Elem (F.mul acc x ^^^ p k) := GF.elem_gfAdd hmul (hp k (by omega))
      rw [hornerLoop, ih _ (fun i hi => hp i (by omega)) hnext, ψ.val_xor hmul (hp k (by omega)), ψ.val_mul hacc hx,
        Finset.sum_range_succ]
      ring
  rw [horner, hloop k 0 hp F.elem_zero, ψ.val_zero, zero_mul, zero_add]

end FieldReading

end Sys2Proof.Machine

/-! ## The loop of Berlekamp and Massey

The loop on lists is R204's loop on functions (`bmLoopRun`), and over a field it keeps `Register.Inv`. -/

namespace Sys2Proof.Machine

open Polynomial Decoding

/-! ### The loop, line by line (44_decoder.md R204) -/

theorem foldl_gfAdd (f : Nat → Cell) (a : Cell) (n : Nat) :
    (List.range n).foldl (fun acc i => gfAdd acc (f i)) a = a ^^^ xorSum n f := by
  induction n with
  | zero => exact BitVec.xor_zero.symm
  | succ n ih => rw [List.range_succ, List.foldl_append, ih, xorSum, ← BitVec.xor_assoc]; rfl

/-- The variables of the loop with the arrays as functions. -/
def BmVars.toLoop (v : BmVars) : BmLoop := ⟨Memory.read v.lam, Memory.read v.bp, v.l, v.pos, v.bd⟩

/-- The variables after the first `k` iterations. -/
def bmAfter (F : GF) (syn : Memory) (k : Nat) : BmVars := (List.range k).foldl (bmStep F syn) bmStart

theorem bmAfter_succ (F : GF) (syn : Memory) (k : Nat) :
    bmAfter F syn (k + 1) = bmStep F syn (bmAfter F syn k) k := by
  rw [bmAfter, List.range_succ, List.foldl_append]
  rfl

section Loop

variable (F : GF) (syn : Memory)

theorem discrepancy_eq (q : Nat) (v : BmVars) :
    discrepancy F syn q v = bmDiscrepancy F (Memory.read syn) v.toLoop q := by
  rw [discrepancy, List.range'_eq_map_range, List.foldl_map, bmDiscrepancy, ← foldl_gfAdd]
  refine congrArg (fun f => List.foldl f _ _) (funext fun d => funext fun i => ?_)
  rw [Nat.add_comm 1 i]
  split
  · rfl
  · exact BitVec.xor_zero.symm

theorem toLoop_bmStep (v : BmVars) (q : Nat) :
    (bmStep F syn v q).toLoop = bmLoopStep F (Memory.read syn) v.toLoop q := by
  have hlam : ∀ c, Memory.read (polyAdd v.lam (polyShift v.pos (polyScale F c v.bp))) = fun i =>
      if v.pos ≤ i then Memory.read v.lam i ^^^ F.mul c (Memory.read v.bp (i - v.pos)) else Memory.read v.lam i :=
    fun c => funext fun i => by
      rw [read_polyAdd, read_polyShift, read_polyScale]
      split
      · rfl
      · exact BitVec.xor_zero
  rw [bmStep, bmLoopStep, discrepancy_eq]
  dsimp only
  split
  · rfl
  · by_cases hl : 2 * v.l ≤ q
    · rw [if_pos hl, if_pos (show 2 * v.toLoop.l ≤ q from hl)]
      exact congrArg (fun lam => (⟨lam, Memory.read v.lam, q + 1 - v.l, 1, _⟩ : BmLoop)) (hlam _)
    · rw [if_neg hl, if_neg (show ¬2 * v.toLoop.l ≤ q from hl)]
      exact congrArg (fun lam => (⟨lam, Memory.read v.bp, v.l, v.pos + 1, v.bd⟩ : BmLoop)) (hlam _)

theorem toLoop_bmAfter (k : Nat) : (bmAfter F syn k).toLoop = bmLoopRun F (Memory.read syn) k := by
  induction k with
  | zero =>
    have hone : Memory.read [1] = oneCoef := funext fun i => by cases i <;> rfl
    exact congrArg (fun f => (⟨f, f, 0, 1, 1⟩ : BmLoop)) hone
  | succ k ih => rw [bmAfter_succ, toLoop_bmStep, ih, bmLoopRun]

/-- The bounds of R205 hold whatever the tables hold. -/
theorem bmLoopRun_bounds (syn : Nat → Cell) (k : Nat) :
    (bmLoopRun F syn k).l ≤ k ∧ 1 ≤ (bmLoopRun F syn k).pos ∧ (bmLoopRun F syn k).pos ≤ k + 1 := by
  induction k with
  | zero => exact ⟨le_rfl, le_rfl, le_rfl⟩
  | succ k ih =>
    obtain ⟨hl, hlow, hhigh⟩ := ih
    rw [bmLoopRun, bmLoopStep]
    split
    · dsimp only
      omega
    · split <;> dsimp only <;> omega

/-- With zero syndromes every iteration only counts (44_decoder.md R204). -/
theorem bmLoopRun_of_zero {syn : Nat → Cell} {k : Nat} (h : ∀ j, j < k → syn j = 0) :
    bmLoopRun F syn k = ⟨oneCoef, oneCoef, 0, k + 1, 1⟩ := by
  induction k with
  | zero => rfl
  | succ k ih =>
    have hd : bmDiscrepancy F syn ⟨oneCoef, oneCoef, 0, k + 1, 1⟩ k = 0 :=
      BitVec.xor_zero.trans (h k (Nat.lt_succ_self k))
    rw [bmLoopRun, ih fun j hj => h j (by omega), bmLoopStep]
    exact if_pos hd

end Loop

/-! ### Over a field -/

theorem xorSum_zero_above {f : Nat → Cell} {n m : Nat} (hnm : n ≤ m) (h : ∀ i, n ≤ i → f i = 0) :
    xorSum m f = xorSum n f := by
  induction m, hnm using Nat.le_induction with
  | base => rfl
  | succ m hm ih => rw [xorSum, ih, h m hm]; exact BitVec.xor_zero

/-- With `LAM[0] = 1` and degree at most `L`, the discrepancy is a coefficient of the product of `LAM` and `SYN`. -/
theorem State.Ready.discrepancy_eq_mulCoef {s : State} (h : s.Ready) {syn : Memory} (hsyn : s.gf.IsPoly syn)
    {v : BmVars} (hone : Memory.read v.lam 0 = 1) (hl : ∀ i, v.l < i → Memory.read v.lam i = 0) (q : Nat) :
    discrepancy s.gf syn q v = mulCoef s.gf (Memory.read v.lam) (Memory.read syn) q := by
  let f (k : Nat) : Cell := s.gf.mul (Memory.read v.lam (k + 1)) (Memory.read syn (q - (k + 1)))
  let g (k : Nat) : Cell := if k + 1 ≤ q then f k else 0
  have habove : ∀ k, v.l ≤ k → g k = 0 := fun k hk => by
    dsimp only [g, f]
    rw [hl _ (by omega)]
    exact ite_eq_right_iff.2 fun _ => GF.zero_mul _ _
  calc discrepancy s.gf syn q v
      = Memory.read syn q ^^^ xorSum v.l g := discrepancy_eq _ _ _ _
    _ = Memory.read syn q ^^^ xorSum q f := by
        rw [← xorSum_zero_above (le_max_left v.l q) habove,
          xorSum_zero_above (le_max_right v.l q) fun k hk => if_neg (by omega)]
        exact congrArg _ (xorSum_congr fun k hk => if_pos hk)
    _ = _ := by
        rw [mulCoef, xorSum_succ_left, hone, GF.mul_comm, Nat.sub_zero, h.fieldReady.mul_one (hsyn.read q)]

section Reading

variable {s : State} (h : s.Ready) {K : Type} [Field K] (ψ : FieldReading s.gf K)

/-- The loop's variables over a field. -/
noncomputable def FieldReading.register {F : GF} (ψ : FieldReading F K) (v : BmVars) : Register K :=
  ⟨ψ.poly v.lam, ψ.poly v.bp, v.l, v.pos, ψ.val v.bd⟩

include h

theorem State.Ready.val_quot {a b : Cell} (ha : s.isElement a) (hb : s.isElement b) (hne : b ≠ 0) :
    ψ.val (s.gf.quot a b) = ψ.val a / ψ.val b := by
  rw [eq_div_iff fun h0 => hne ((ψ.val_eq_zero_iff hb).1 h0), ← ψ.val_mul (h.closed.elem_quot a b) hb,
    h.fieldReady.quot_mul_cancel ha hb hne]

/-- One iteration keeps the invariant of the loop. -/
theorem State.Ready.inv_bmStep {syn : Memory} (hsyn : s.gf.IsPoly syn) {v : BmVars} (hv : v.OverField s.gf) {k : Nat}
    (hinv : (ψ.register v).Inv (ψ.poly syn) k) :
    (ψ.register (bmStep s.gf syn v k)).Inv (ψ.poly syn) (k + 1) := by
  have hone : Memory.read v.lam 0 = 1 := ψ.val_injective (hv.lam.read 0) h.closed.elem_one (by
    rw [← ψ.poly_coeff, ψ.val_one]
    exact hinv.generates.coeff_zero)
  have hd : (ψ.poly v.lam * ψ.poly syn).coeff k = ψ.val (discrepancy s.gf syn k v) := by
    rw [h.discrepancy_eq_mulCoef hsyn hone fun i hi =>
      ψ.read_eq_zero_of_natDegree_lt hv.lam (hinv.generates.natDegree_le.trans_lt hi), ψ.poly_mul_coeff hv.lam hsyn]
  have helem : s.gf.Elem (discrepancy s.gf syn k v) := h.closed.elem_discrepancy hsyn k v
  have hlam : ψ.poly (polyAdd v.lam (polyShift v.pos (polyScale s.gf (s.gf.quot (discrepancy s.gf syn k v) v.bd) v.bp)))
      = ψ.poly v.lam - C (ψ.val (discrepancy s.gf syn k v) / ψ.val v.bd) * (ψ.register v).shifted := by
    have := ψ.charTwo
    rw [ψ.poly_polyAdd hv.lam ((h.closed.isPoly_polyScale _ _).polyShift _), ψ.poly_polyShift,
      ψ.poly_polyScale hv.bp (h.closed.elem_quot _ _), h.val_quot ψ helem hv.bd hv.bd_ne_zero, CharTwo.sub_eq_add,
      mul_left_comm]
    rfl
  rw [bmStep]
  dsimp only
  split
  case isTrue hzero => exact hinv.of_zero (hd.trans (by rw [hzero, ψ.val_zero]))
  case isFalse hne =>
    split
    case isTrue hl =>
      rw [FieldReading.register, hlam]
      exact hinv.of_lengthen hd (fun h0 => hne ((ψ.val_eq_zero_iff helem).1 h0)) hl
    case isFalse hl =>
      rw [FieldReading.register, hlam]
      exact hinv.of_change hd (Nat.lt_of_not_le hl)

/-- R205, with the minimality of the register. -/
theorem State.Ready.inv_bmAfter {syn : Memory} (hsyn : s.gf.IsPoly syn) (k : Nat) :
    (bmAfter s.gf syn k).OverField s.gf ∧ (ψ.register (bmAfter s.gf syn k)).Inv (ψ.poly syn) k := by
  induction k with
  | zero =>
    refine ⟨h.closed.overField_bmStart, ?_⟩
    change Register.Inv _ ⟨ψ.poly [1], ψ.poly [1], 0, 1, ψ.val 1⟩ 0
    rw [ψ.poly_one, ψ.val_one]
    exact Register.inv_start _
  | succ k ih =>
    obtain ⟨hv, hinv⟩ := ih
    rw [bmAfter_succ]
    exact ⟨h.closed.overField_bmStep hsyn hv k, h.inv_bmStep ψ hsyn hv hinv⟩

end Reading

/-! ### `BMA` -/

section Phase

variable {s : State}

/-- `2T` is below `N`, so below 4095 (43_generator_encoder.md R185). -/
theorem State.DecOK.two_t_lt (hd : s.DecOK) : 2 * s.t.toNat < s.n.toNat ∧ s.n.toNat < 4096 ∧ 1 ≤ s.t.toNat := by
  obtain ⟨⟨-, hn, -⟩, ht, hle⟩ := hd
  have hn' : s.n.toNat ≠ 0 := fun h0 => hn (BitVec.eq_of_toNat_eq h0)
  have ht' : s.t.toNat ≠ 0 := fun h0 => ht (BitVec.eq_of_toNat_eq h0)
  have := s.n.isLt
  omega

theorem State.DecOK.fv (hd : s.DecOK) : s.status.fv = true := by
  obtain ⟨⟨hf, -⟩, -⟩ := hd
  exact hf

/-- A decoder command without a check of its own takes its effect when `DecOK` holds. -/
theorem State.DecOK.exec_phase {i : Instr} (hi : i ∈ [Instr.bma, .chien, .omega, .forney, .correct]) (hd : s.DecOK) :
    exec i s = .next ((commandEffect i s).answered (commandValue i s)) := by
  have hpass := s.firstFailing_decChecks.2.2 hd
  simp only [List.mem_cons, List.not_mem_nil, or_false] at hi
  obtain rfl | rfl | rfl | rfl | rfl := hi <;> exact exec_of_pass hpass

/-- What the spec says of the word of every decoder command and of its first checks (R97, R184, R185). -/
theorem decoderCommand_word_and_checks {i : Instr} {w : Word} {fn : Nat} (hi : i ∈ decoderCommands) (hw : encode i = w)
    (hlow : 6 ≤ fn) (hhigh : fn ≤ 12) : IsWordOf w i ∧ ImmediateMustBeZero 5 fn ∧
      (∀ s : State, s.status.fv = false → exec i s = .next (s.faulted 5)) ∧
      ∀ s : State, s.status.fv = true → ¬s.DecOK → exec i s = .next (s.faulted 1) := by
  have hneeds : ∀ i ∈ decoderCommands, needsField i = true := by decide
  refine ⟨isWordOf_iff.2 hw, immediateMustBeZero_of_formatZ ?_, fun s => exec_of_needsField (hneeds i hi),
    fun s => exec_of_not_decOK hi⟩
  simp only [List.mem_cons, Prod.mk.injEq, List.not_mem_nil, or_false, true_and]
  omega

theorem KeepsBut.swap {base t : State} {sel sel' : ArrSel} (h : KeepsBut base t [sel, sel']) :
    KeepsBut base t [sel', sel] := by
  obtain ⟨hbase, harr⟩ := h
  exact ⟨hbase, fun sel₀ hno => harr sel₀ fun hmem => hno (by simpa [or_comm] using hmem)⟩

theorem toNat_ofNat_cell {k : Nat} (hk : k < 4096) : (BitVec.ofNat 12 k).toNat = k :=
  (BitVec.toNat_ofNat _ _).trans (Nat.mod_eq_of_lt hk)

/-- The state after `BMA`, with the loop of R204 on functions. -/
theorem State.DecOK.exec_bma (hd : s.DecOK) : ∃ t, exec .bma s = .next t ∧
    KeepsBut
      (({ s with
          l := BitVec.ofNat 12 (bmLoopRun s.gf (s.coef .syn) (2 * s.t.toNat)).l
          pos := BitVec.ofNat 12 (bmLoopRun s.gf (s.coef .syn) (2 * s.t.toNat)).pos
          bd := (bmLoopRun s.gf (s.coef .syn) (2 * s.t.toNat)).bd } : State).answered
        (resultOf (bmLoopRun s.gf (s.coef .syn) (2 * s.t.toNat)).l)) t [.lam, .bp] ∧
    ∀ i, t.coef .lam i = (if i < 4096 then (bmLoopRun s.gf (s.coef .syn) (2 * s.t.toNat)).lam i else 0) ∧
      t.coef .bp i = if i < 4096 then (bmLoopRun s.gf (s.coef .syn) (2 * s.t.toNat)).bp i else 0 := by
  have hbound : (bmLoopRun s.gf (s.coef .syn) (2 * s.t.toNat)).l < 4096 := by
    have := hd.two_t_lt
    have := (bmLoopRun_bounds s.gf (s.coef .syn) (2 * s.t.toNat)).1
    omega
  have hrun : bmLoopRun s.gf (s.coef .syn) (2 * s.t.toNat) = (berlekampMassey s.gf s.arrays.syn s.t.toNat).toLoop :=
    (toLoop_bmAfter _ _ _).symm
  have hvalue : commandValue .bma s = resultOf (bmLoopRun s.gf (s.coef .syn) (2 * s.t.toNat)).l := by
    refine (cellValue_eq _).trans (congrArg resultOf ?_)
    rw [hrun] at hbound ⊢
    exact toNat_ofNat_cell hbound
  refine ⟨_, hd.exec_phase (i := .bma) (by decide), ?_⟩
  rw [hvalue, hrun]
  refine ⟨(((KeepsBut.refl _ []).setArr .lam _).setArr .bp _).swap, fun i => ⟨?_, ?_⟩⟩ <;>
    exact Memory.read_store _ i

end Phase

/-- Settles O39: the lists of the loop read as the functions of its transcription. -/
theorem bmaRule : Obligations.BmaRule := by
  obtain ⟨hword, himm, hnofield, hnodec⟩ :=
    decoderCommand_word_and_checks (i := .bma) (fn := 7) (by decide) rfl (by decide) (by decide)
  refine ⟨hword, himm, hnofield, hnodec, fun s hd => ?_, fun s hd hzero => ?_⟩
  · obtain ⟨t, hexec, hkeep, hcells⟩ := hd.exec_bma
    obtain ⟨hl, -, hpos⟩ := bmLoopRun_bounds s.gf (s.coef .syn) (2 * s.t.toNat)
    obtain ⟨hlt, hn, -⟩ := hd.two_t_lt
    refine ⟨t, _, rfl, hexec, hkeep, fun i hi => ?_, by omega, by omega⟩
    rw [(hcells i).1, (hcells i).2, if_pos hi, if_pos hi]
    exact ⟨rfl, rfl⟩
  · obtain ⟨t, hexec, ⟨hbase, -⟩, hcells⟩ := hd.exec_bma
    obtain ⟨hlt, hn, -⟩ := hd.two_t_lt
    rw [bmLoopRun_of_zero _ hzero] at hbase hcells
    refine ⟨t, hexec, congrArg State.l hbase, ?_, congrArg State.bd hbase, fun i => ?_⟩
    · have hpos : t.pos = BitVec.ofNat 12 (2 * s.t.toNat + 1) := congrArg State.pos hbase
      rw [hpos]
      exact toNat_ofNat_cell (by omega)
    · have habove : ∀ i, (if i < 4096 then oneCoef i else 0) = oneCoef i := fun i => by
        split
        · rfl
        · exact (if_neg (by omega)).symm
      rw [(hcells i).1, (hcells i).2, habove]
      exact ⟨rfl, rfl⟩

section Reading

variable {s : State} (h : s.Ready) (hd : s.DecOK) {K : Type} [Field K] (ψ : FieldReading s.gf K)
include h hd

/-- What `BMA` leaves in `LAM` and `L` is a shortest register for the `2T` syndromes. -/
theorem State.Ready.bmaPhase_generates :
    Generates (ψ.poly (s.arr .syn)) (ψ.poly (s.bmaPhase.arr .lam)) s.bmaPhase.l.toNat (2 * s.t.toNat) ∧
    (∀ Λ N, Generates (ψ.poly (s.arr .syn)) Λ N (2 * s.t.toNat) → s.bmaPhase.l.toNat ≤ N) ∧
    s.bmaPhase.l.toNat ≤ 2 * s.t.toNat := by
  obtain ⟨hlt, hn, -⟩ := hd.two_t_lt
  obtain ⟨hv, hinv⟩ := h.inv_bmAfter ψ (h.isPoly .syn) (2 * s.t.toNat)
  have hl : s.bmaPhase.l.toNat = (bmAfter s.gf (s.arr .syn) (2 * s.t.toNat)).l :=
    toNat_ofNat_cell (lt_of_le_of_lt hinv.l_le (by omega))
  have hlam : ψ.poly (s.bmaPhase.arr .lam) = ψ.poly (bmAfter s.gf (s.arr .syn) (2 * s.t.toNat)).lam :=
    ψ.poly_congr fun i => by
      refine (Memory.read_store _ i).trans ?_
      split
      · rfl
      · refine (ψ.read_eq_zero_of_natDegree_lt hv.lam (lt_of_le_of_lt hinv.generates.natDegree_le ?_)).symm
        exact lt_of_le_of_lt hinv.l_le (by dsimp only [Config.plen] at *; omega)
  rw [hl, hlam]
  exact ⟨hinv.generates, hinv.minimal, hinv.l_le⟩

end Reading

/-- Settles O40: the invariant of the loop, read back in cells. -/
theorem bmaGeneratesSyndromes : Obligations.BmaGeneratesSyndromes := by
  intro s hs hd
  have h : s.Ready := ⟨hs, hd.fv⟩
  let _ := Element.field h
  let ψ := Element.reading h
  obtain ⟨hgen, -, hle⟩ := h.bmaPhase_generates hd ψ
  obtain ⟨hlt, hn, -⟩ := hd.two_t_lt
  obtain ⟨-, hlow, hhigh⟩ := bmLoopRun_bounds s.gf (s.coef .syn) (2 * s.t.toNat)
  have hpos : s.bmaPhase.pos.toNat = (bmLoopRun s.gf (s.coef .syn) (2 * s.t.toNat)).pos := by
    have hrun : bmLoopRun s.gf (s.coef .syn) (2 * s.t.toNat) = (bmAfter s.gf (s.arr .syn) (2 * s.t.toNat)).toLoop :=
      (toLoop_bmAfter _ _ _).symm
    rw [hrun] at hhigh ⊢
    exact toNat_ofNat_cell (hhigh.trans_lt (by omega))
  have hlam := h.bmaPhase.isPoly .lam
  have hone : s.bmaPhase.coef .lam 0 = 1 := ψ.val_injective (hlam.read 0) h.closed.elem_one (by
    rw [ψ.val_one, ← hgen.coeff_zero, ψ.poly_coeff]
    rfl)
  have hzero : ∀ i, s.bmaPhase.l.toNat < i → s.bmaPhase.coef .lam i = 0 := fun i hi =>
    ψ.read_eq_zero_of_natDegree_lt hlam (lt_of_le_of_lt hgen.natDegree_le hi)
  refine ⟨_, hd.exec_phase (i := .bma) (by decide), hle, ?_, ?_, ?_, hone, hzero, fun q hq hqt => ?_⟩
  · exact hlow.trans hpos.ge
  · exact hpos.le.trans hhigh
  · exact (h.closed.overField_berlekampMassey (h.isPoly .syn) _).bd_ne_zero
  · have hcoef : mulCoef s.gf (s.bmaPhase.coef .lam) (s.coef .syn) q = 0 :=
      (ψ.val_eq_zero_iff (GF.elem_xorSum (fun j => h.closed.elem_mul _ _) _)).1
        ((ψ.poly_mul_coeff hlam (h.isPoly .syn) q).symm.trans (hgen.recurrence q hq hqt))
    refine (xorSum_zero_above (Nat.succ_le_succ hq) fun i hi => ?_).symm.trans hcoef
    change s.gf.mul (s.bmaPhase.coef .lam i) _ = 0
    rw [hzero i hi]
    exact GF.zero_mul _ _

end Sys2Proof.Machine

/-! ## The phases of the decoder, one by one -/

namespace Sys2Proof.Machine

/-! ### `SYND` (44_decoder.md R201, R202) -/

theorem horner_congr (F : GF) {p q : Nat → Cell} {k : Nat} (h : ∀ i, i < k → p i = q i) (x : Cell) :
    horner F p k x = horner F q k x := by
  have hloop : ∀ (k : Nat) (acc : Cell), (∀ i, i < k → p i = q i) →
      hornerLoop F p x k acc = hornerLoop F q x k acc := by
    intro k
    induction k with
    | zero => exact fun _ _ => rfl
    | succ k ih => exact fun acc h => by rw [hornerLoop, hornerLoop, h k (by omega), ih _ fun i hi => h i (by omega)]
  exact hloop k 0 h

section Phases

variable (s : State)

theorem State.polyEval_received (x : Cell) :
    polyEval s.gf s.received x = horner s.gf (s.coef .cw) s.n.toNat x := by
  have hlength : s.received.length ≤ s.n.toNat := List.length_take_le _ _
  rw [polyEval_eq_horner _ _ _ hlength]
  exact horner_congr _ (fun i hi => (s.read_received i).trans (if_pos hi)) x

theorem State.syndPhase_coef_syn (j : Nat) :
    s.syndPhase.coef .syn j = if j < 2 * s.t.toNat then s.syndrome (s.coef .cw) j else 0 := by
  have ht := s.t.isLt
  refine (Memory.read_store _ j).trans ?_
  rw [State.syndromes, Memory.read_map_range]
  split
  · rw [s.polyEval_received]
    rfl
  · exact (if_neg (by dsimp only [Config.plen] at *; omega)).symm

theorem State.syndPhase_sz_eq_true_iff_inCode : s.syndPhase.status.sz = true ↔ s.InCode (s.coef .cw) := by
  rw [State.syndPhase_sz_eq_true_iff, State.InCode]
  exact forall_congr' fun j => forall_congr' fun _ => by rw [s.polyEval_received]; rfl

/-! ### `CHIEN` (R210, R214) -/

theorem State.chienRoots_pairwise : s.chienRoots.Pairwise (· < ·) := List.pairwise_lt_range.filter _

theorem State.mem_chienRoots {i : Nat} :
    i ∈ s.chienRoots ↔ i < s.n.toNat ∧ polyEval s.gf s.arrays.lam (s.gf.alphaNeg i) = 0 := by
  rw [State.chienRoots, List.mem_filter, List.mem_range, beq_iff_eq]

theorem State.length_chienRoots_le : s.chienRoots.length ≤ s.n.toNat :=
  (List.length_filter_le _ _).trans List.length_range.le

theorem State.toNat_chienPhase_nroots : s.chienPhase.nroots.toNat = s.chienRoots.length :=
  toNat_ofNat_cell (s.length_chienRoots_le.trans_lt s.n.isLt)

/-- The listed positions read back as numbers. -/
theorem State.toNat_chienPhase_coef_epos (j : Nat) :
    (s.chienPhase.coef .epos j).toNat = s.chienRoots.getD j 0 := by
  have hn := s.n.isLt
  have hlength := s.length_chienRoots_le
  have hread : s.chienPhase.coef .epos j = Memory.read (s.chienRoots.map (BitVec.ofNat 12)) j := by
    refine (Memory.read_store _ j).trans (ite_eq_left_iff.2 fun hj => (Memory.read_of_length_le ?_).symm)
    rw [List.length_map]
    dsimp only [Config.plen] at hj
    omega
  rw [hread, Memory.read]
  obtain hlt | hle := Nat.lt_or_ge j s.chienRoots.length
  · have hmem := s.mem_chienRoots.1 (List.getElem_mem hlt)
    simp only [List.getD_eq_getElem?_getD, List.getElem?_map, List.getElem?_eq_getElem hlt, Option.map_some,
      Option.getD_some]
    exact toNat_ofNat_cell (hmem.1.trans hn)
  · simp [List.getElem?_eq_none hle]

/-! ### `OMEGA` and `FORNEY` (R216 to R219) -/

theorem omegaCoef_eq (F : GF) (syn lam : Memory) (i : Nat) :
    omegaCoef F syn lam i = mulCoef F (Memory.read syn) (Memory.read lam) i :=
  (foldl_gfAdd _ _ _).trans BitVec.zero_xor

theorem State.omegaPhase_coef_omg (i : Nat) :
    s.omegaPhase.coef .omg i = if i < 2 * s.t.toNat then mulCoef s.gf (s.coef .syn) (s.coef .lam) i else 0 := by
  have ht := s.t.isLt
  refine (Memory.read_store _ i).trans ?_
  rw [Memory.read_map_range]
  split
  · rw [omegaCoef_eq]
    rfl
  · exact (if_neg (by dsimp only [Config.plen] at *; omega)).symm

/-- The value `FORNEY` writes for listed error `j`, and the value 0 beyond the list. -/
theorem State.forneyPhase_coef_eval (j : Nat) :
    s.forneyPhase.coef .eval j = if j < s.nroots.toNat then s.forneyValue (s.coef .epos j) else 0 := by
  have hn := s.nroots.isLt
  refine (Memory.read_store _ j).trans ?_
  rw [State.positions, List.map_map, Memory.read_map_range]
  split
  · rfl
  · exact (if_neg (by dsimp only [Config.plen] at *; omega)).symm

theorem State.forneyPhase_fdz_eq_true_iff :
    s.forneyPhase.status.fdz = true ↔ ∃ j, j < s.nroots.toNat ∧ s.forneyDen (s.coef .epos j) = 0 := by
  change s.positions.any _ = true ↔ _
  simp only [State.positions, List.any_map, List.any_eq_true, List.mem_range, Function.comp, beq_iff_eq]
  rfl

/-! ### `CORRECT` (R222, R223) -/

theorem State.magnitude_eq (j : Nat) : s.magnitude j = if s.mode = .bch then 1 else s.coef .eval j := by
  rw [State.magnitude]
  cases s.mode <;> rfl

/-- What the first `k` listed errors add to a cell. -/
theorem State.read_foldl_correctCell (cw : Memory) {i : Nat} (hi : i < 4096) (k : Nat) :
    Memory.read ((List.range k).foldl s.correctCell cw) i = Memory.read cw i ^^^ xorSum k (fun j =>
      if i < s.n.toNat ∧ (s.coef .epos j).toNat = i then s.magnitude j else 0) := by
  induction k with
  | zero => exact BitVec.xor_zero.symm
  | succ k ih =>
    rw [List.range_succ, List.foldl_append, List.foldl_cons, List.foldl_nil, s.read_correctCell _ _ hi, ih, xorSum]
    split
    · exact BitVec.xor_assoc _ _ _
    · rw [← BitVec.xor_assoc]
      exact BitVec.xor_zero.symm

theorem State.applyCorrection_coef_cw {i : Nat} (hi : i < s.n.toNat) :
    s.applyCorrection.coef .cw i = s.coef .cw i ^^^ xorSum s.nroots.toNat (fun j =>
      if (s.coef .epos j).toNat = i then s.magnitude j else 0) := by
  have hlt : i < 4096 := hi.trans s.n.isLt
  refine ((Memory.read_store _ i).trans (if_pos hlt)).trans ((s.read_foldl_correctCell _ hlt _).trans ?_)
  simp only [hi, true_and]
  rfl

end Phases

/-! ### The statements -/

/-- The check of `SYND` and `DECODE` on the symbols (44_decoder.md R202, R231). -/
theorem State.DecOK.firstFailing_of_not_bitsOK {s : State} (hd : s.DecOK) (hb : ¬s.BitsOK) :
    firstFailing (s.decChecks ++ [s.needBits]) = some .operandRange := by
  have hbits : s.needBits = (true, .operandRange) := Prod.ext (by simpa using mt s.needBits_eq_false_iff.1 hb) rfl
  rw [firstFailing_append_of_none (s.firstFailing_decChecks.2.2 hd), hbits]
  rfl

/-- Settles O38: the fold over the received symbols is Horner's loop over the cells of `CW`. -/
theorem syndRule : Obligations.SyndRule := by
  obtain ⟨hword, himm, hnofield, hnodec⟩ :=
    decoderCommand_word_and_checks (i := .synd) (fn := 6) (by decide) rfl (by decide) (by decide)
  refine ⟨hword, himm, hnofield, hnodec, fun s hd hb =>
    exec_of_fail (k := .operandRange) (hd.firstFailing_of_not_bitsOK hb), fun s hd hb => ?_⟩
  exact ⟨_, s.syndPhase.status.sz, exec_of_pass (i := .synd) (firstFailing_wordChecks hd hb),
    s.syndPhase_sz_eq_true_iff_inCode, (KeepsBut.refl _ []).setArr .syn _, fun j _ => s.syndPhase_coef_syn j⟩

/-- Settles O41: the filter of a range is ascending, and no longer than it. -/
theorem chienRule : Obligations.ChienRule := by
  obtain ⟨hword, himm, hnofield, hnodec⟩ :=
    decoderCommand_word_and_checks (i := .chien) (fn := 8) (by decide) rfl (by decide) (by decide)
  refine ⟨hword, himm, hnofield, hnodec, fun s hwf hd => ?_⟩
  have hrlm : decide (s.chienRoots.length ≠ s.l.toNat) = rlmFlag s.chienRoots.length s.l := by
    rw [rlmFlag, bne, Bool.beq_eq_decide_eq, decide_not]
  have hvalue : commandValue .chien s = resultOf s.chienRoots.length :=
    (cellValue_eq _).trans (congrArg resultOf s.toNat_chienPhase_nroots)
  refine ⟨_, s.chienRoots, s.chienRoots_pairwise, fun i => ?_, hd.exec_phase (i := .chien) (by decide), ?_,
    s.length_chienRoots_le.trans_lt s.n.isLt, fun j _ => s.toNat_chienPhase_coef_epos j⟩
  · rw [s.mem_chienRoots]
    exact and_congr_right fun _ => by rw [← s.polyEval_arr (hwf .lam)]; rfl
  · rw [hrlm, hvalue]
    exact (KeepsBut.refl _ []).setArr .epos _

/-- Settles O42: the fold of R216 is a coefficient of the product. -/
theorem omegaRule : Obligations.OmegaRule := by
  obtain ⟨hword, himm, hnofield, hnodec⟩ :=
    decoderCommand_word_and_checks (i := .omega) (fn := 9) (by decide) rfl (by decide) (by decide)
  exact ⟨hword, himm, hnofield, hnodec, fun s hd => ⟨_, hd.exec_phase (i := .omega) (by decide),
    (KeepsBut.refl _ []).setArr .omg _, fun i _ => s.omegaPhase_coef_omg i⟩⟩

/-- The denominator of R218, by the coefficients of the derivative (R158). -/
theorem State.ArraysWf.forneyDen_eq {s : State} (hwf : s.ArraysWf) (j : Nat) :
    s.forneyDen (s.coef .epos j) = s.denominator j := by
  have habove : ∀ i, 4096 ≤ i → Memory.read (polyDeriv (s.arr .lam)) i = 0 := fun i hi => by
    rw [read_polyDeriv, derivCoef, Memory.read_of_wf (hwf .lam) (by dsimp only [Config.plen]; omega), ite_self]
  change polyEval s.gf (polyDeriv (s.arr .lam)) _ = _
  rw [polyEval_eq_horner _ _ _ (le_max_right 4096 _), horner, hornerLoop_zero_above _ _ _ (le_max_left 4096 _) habove,
    ← horner]
  exact horner_congr _ (fun i _ => read_polyDeriv _ i) _

/-- Settles O43: values and denominators are evaluations over whole array registers. -/
theorem forneyRule : Obligations.ForneyRule := by
  obtain ⟨hword, himm, hnofield, hnodec⟩ :=
    decoderCommand_word_and_checks (i := .forney) (fn := 10) (by decide) rfl (by decide) (by decide)
  refine ⟨hword, himm, hnofield, hnodec, fun s hwf hd => ⟨_, s.forneyPhase.status.fdz, ?_,
    hd.exec_phase (i := .forney) (by decide), (KeepsBut.refl _ []).setArr .eval _, fun j _ => ?_⟩⟩
  · rw [s.forneyPhase_fdz_eq_true_iff]
    simp only [hwf.forneyDen_eq]
  · change s.forneyPhase.coef .eval j = _
    rw [s.forneyPhase_coef_eval, State.forneyValue, hwf.forneyDen_eq]
    by_cases hj : j < s.nroots.toNat
    · rw [if_pos hj]
      by_cases hzero : s.denominator j = 0
      · rw [if_pos hzero, if_neg fun h => h.2 hzero]
      · rw [if_neg hzero, if_pos ⟨hj, hzero⟩]
        exact congrArg (s.gf.quot · _) (s.polyEval_arr (hwf .omg) _)
    · rw [if_neg hj, if_neg fun h => hj h.1]

/-- Settles O44: each listed error adds its magnitude to its own cell only. -/
theorem correctRule : Obligations.CorrectRule := by
  obtain ⟨hword, himm, hnofield, hnodec⟩ :=
    decoderCommand_word_and_checks (i := .correct) (fn := 11) (by decide) rfl (by decide) (by decide)
  have hexec : ∀ {s : State} (hd : s.DecOK),
      exec .correct s = .next (s.correctPhase.answered (flagValue s.correctPhase.status.ok)) :=
    fun hd => hd.exec_phase (i := .correct) (by decide)
  refine ⟨hword, himm, hnofield, hnodec, fun s hd hsz => ?_, fun s hd hsz hfail => ?_, fun s hd hsz hfail => ?_⟩
  · rw [hexec hd, State.correctPhase, if_pos hsz]
    rfl
  · rw [hexec hd, State.correctPhase, hsz, if_neg Bool.false_ne_true, if_pos (s.failed_eq_true_iff.2 hfail)]
    rfl
  · have hphase : s.correctPhase = s.applyCorrection := by
      rw [State.correctPhase, hsz, if_neg Bool.false_ne_true, if_neg (mt s.failed_eq_true_iff.1 hfail)]
    have hkeep := (KeepsOutsideDecode.refl s).applyCorrection
    rw [hexec hd, hphase]
    refine ⟨_, rfl, (KeepsBut.refl _ []).setArr .cw _, fun i hi => ?_, hkeep.above⟩
    simp only [← s.magnitude_eq]
    exact s.applyCorrection_coef_cw hi

end Sys2Proof.Machine

/-! ## `DECODE` as the phase commands

The phase commands do what the phases inside `DECODE` do, but each of them answers; `AgreesButAnswer` sets that
difference aside. -/

namespace Sys2Proof.Machine

/-- `u` is `s` with another `RES` and other responses. -/
def State.AgreesButAnswer (s u : State) : Prop := ∃ res responses, u = { s with res := res, responses := responses }

theorem State.AgreesButAnswer.refl (s : State) : s.AgreesButAnswer s := ⟨s.res, s.responses, rfl⟩

section Agree

variable {s u : State} (h : s.AgreesButAnswer u)
include h

theorem State.AgreesButAnswer.status : u.status = s.status := by
  obtain ⟨_, _, rfl⟩ := h
  rfl

theorem State.AgreesButAnswer.mode : u.mode = s.mode := by
  obtain ⟨_, _, rfl⟩ := h
  rfl

/-- A phase command in `u` does what the phase does in `s`. -/
theorem State.AgreesButAnswer.after {i : Instr} (hi : i ∈ [Instr.synd, .bma, .chien, .omega, .forney, .correct])
    (hpass : firstFailing (commandChecks i s) = none) : (commandEffect i s).AgreesButAnswer (u.after i) := by
  obtain ⟨res, responses, rfl⟩ := h
  have hchecks : commandChecks i { s with res := res, responses := responses } = commandChecks i s := by
    simp only [List.mem_cons, List.not_mem_nil, or_false] at hi
    obtain rfl | rfl | rfl | rfl | rfl | rfl := hi <;> rfl
  rw [State.after_of_exec (exec_of_pass (hchecks ▸ hpass))]
  simp only [List.mem_cons, List.not_mem_nil, or_false] at hi
  obtain rfl | rfl | rfl | rfl | rfl | rfl := hi
  case inr.inr.inr.inr.inr =>
    have hcorrect : ({ s with res := res, responses := responses } : State).correctPhase =
        { s.correctPhase with res := res, responses := responses } := by
      rw [State.correctPhase, State.correctPhase]
      dsimp only
      split
      · rfl
      · split <;> rfl
    change s.correctPhase.AgreesButAnswer (State.answered (State.correctPhase _) _)
    rw [hcorrect]
    exact ⟨_, _, rfl⟩
  all_goals exact ⟨_, _, rfl⟩

/-- A command that answers the same ends in the same state. -/
theorem State.AgreesButAnswer.answered_eq (v : BitVec 16) :
    ({ u with responses := s.responses } : State).answered v = s.answered v := by
  obtain ⟨_, _, rfl⟩ := h
  rfl

end Agree

section Phases

variable {s : State}

/-- After a failure there is nothing left for `CORRECT` to write (44_decoder.md R223). -/
theorem State.correctPhase_of_failed (hsz : s.status.sz = false) (hfailed : s.status.failed s.mode = true)
    (hecnt : s.ecnt = 0) (hok : s.status.ok = false) : s.correctPhase = s := by
  rw [State.correctPhase, hsz, if_neg Bool.false_ne_true, if_pos hfailed, ← hecnt, ← hok]
  rfl

theorem State.correctPhase_of_not_failed (hsz : s.status.sz = false) (hfailed : s.status.failed s.mode = false) :
    s.correctPhase = s.applyCorrection := by
  rw [State.correctPhase, hsz, hfailed, if_neg Bool.false_ne_true, if_neg Bool.false_ne_true]

/-- The part of R231 after the search is the phases of R200 from there on. -/
theorem State.finishDecode_eq (hsz : s.status.sz = false) (hecnt : s.ecnt = 0) (hok : s.status.ok = false) :
    s.finishDecode = if s.mode = .rs ∧ s.status.tmr = false ∧ s.status.rlm = false then
      s.omegaPhase.forneyPhase.correctPhase else s.correctPhase := by
  rw [State.finishDecode]
  by_cases hsearch : (s.status.tmr || s.status.rlm) = true
  · have hno : ¬(s.mode = .rs ∧ s.status.tmr = false ∧ s.status.rlm = false) := fun ⟨_, htmr, hrlm⟩ => by
      rw [htmr, hrlm] at hsearch
      exact Bool.false_ne_true hsearch
    have hfailed : s.status.failed s.mode = true := by rw [Status.failed, hsearch, Bool.true_or]
    rw [if_pos hsearch, if_neg hno, State.correctPhase_of_failed hsz hfailed hecnt hok]
  · have hclean : s.status.tmr = false ∧ s.status.rlm = false := by
      rwa [Bool.not_eq_true, Bool.or_eq_false_iff] at hsearch
    rw [if_neg hsearch]
    dsimp only
    cases hmode : s.mode with
    | bch =>
      have hmagnitude : s.magnitudePhase = s := by rw [State.magnitudePhase, hmode]
      have hfailed : s.status.failed s.mode = false := by
        rw [Status.failed, hmode, hclean.1, hclean.2]
        rfl
      rw [hmagnitude, hmode, State.correctPhase_of_not_failed hsz hfailed]
      rfl
    | rs =>
      have hmagnitude : s.magnitudePhase = s.omegaPhase.forneyPhase := by rw [State.magnitudePhase, hmode]
      have hmode' : s.omegaPhase.forneyPhase.mode = .rs := hmode
      have hfailed : s.omegaPhase.forneyPhase.status.failed s.omegaPhase.forneyPhase.mode =
          s.omegaPhase.forneyPhase.status.fdz := by
        rw [hmode']
        change (s.status.tmr || s.status.rlm || (true && _)) = _
        rw [hclean.1, hclean.2]
        rfl
      rw [hmagnitude, hmode', if_pos (c := Mode.rs = .rs ∧ s.status.tmr = false ∧ s.status.rlm = false) ⟨rfl, hclean⟩]
      cases hfdz : s.omegaPhase.forneyPhase.status.fdz with
      | true =>
        exact (State.correctPhase_of_failed (s := s.omegaPhase.forneyPhase) hsz (hfailed.trans hfdz) hecnt hok).symm
      | false => exact (State.correctPhase_of_not_failed (s := s.omegaPhase.forneyPhase) hsz (hfailed.trans hfdz)).symm

/-- The checks of a phase command pass in every state with the setup of `s`. -/
theorem State.DecOK.of_keepsSetup {s' : State} (hd : s.DecOK) (h : KeepsSetup s s') : s'.DecOK := by
  rw [State.DecOK, State.GeomOK, State.ord] at *
  rwa [h.fv, h.n, h.mode, h.m, h.t]

theorem State.cleared_eq (s : State) : s.cleared = s.clearDecode := by
  unfold State.cleared State.clearDecode State.setNroots State.setArr State.setEcnt State.setStatus ArrayFile.set
  rfl

theorem State.BitsOK.of_keepsSetup {s' : State} (hb : s.BitsOK) (h : KeepsSetup s s')
    (hcw : s'.arr .cw = s.arr .cw) : s'.BitsOK := by
  rw [State.BitsOK] at *
  simpa only [h.mode, h.n, State.coef, hcw] using hb

/-- The state of `DECODE` with the record cleared and the syndromes computed (44_decoder.md R231). -/
def State.withSyndromes (s : State) : State := s.clearDecode.syndPhase

/-- The state of `DECODE` after the search (44_decoder.md R231). -/
def State.searched (s : State) : State := s.withSyndromes.bmaPhase.chienPhase

theorem State.withSyndromes_keepsSetup (s : State) : KeepsSetup s s.withSyndromes :=
  s.clearDecode_keepsSetup.trans s.clearDecode.syndPhase_keepsSetup

theorem State.searched_keepsSetup (s : State) : KeepsSetup s s.searched :=
  (s.withSyndromes_keepsSetup.trans s.withSyndromes.bmaPhase_keepsSetup).trans (State.chienPhase_keepsSetup _)

/-- Whatever the search finds, the record of the decode before is gone. -/
theorem State.searched_record (s : State) : s.searched.status.sz = s.withSyndromes.status.sz ∧
    s.searched.ecnt = 0 ∧ s.searched.status.ok = false ∧ s.searched.status.fdz = false := ⟨rfl, rfl, rfl, rfl⟩

theorem State.decodePhase_eq_finishDecode (s : State) : s.decodePhase =
    if s.withSyndromes.status.sz then s.withSyndromes.setStatus { s.withSyndromes.status with ok := true }
    else s.searched.finishDecode := by
  rw [State.decodePhase]
  rfl

/-- `DECODE` as phases alone: the last one is always what `CORRECT` does. -/
theorem State.decodePhase_eq (s : State) : s.decodePhase =
    if s.withSyndromes.status.sz then s.withSyndromes.correctPhase
    else if s.searched.mode = .rs ∧ s.searched.status.tmr = false ∧ s.searched.status.rlm = false then
      s.searched.omegaPhase.forneyPhase.correctPhase
    else s.searched.correctPhase := by
  obtain ⟨hsz, hecnt, hok, -⟩ := s.searched_record
  rw [s.decodePhase_eq_finishDecode]
  split
  case isTrue h =>
    rw [State.correctPhase, if_pos h]
    rfl
  case isFalse h => exact State.finishDecode_eq (hsz.trans (Bool.eq_false_of_not_eq_true h)) hecnt hok

/-- `DECODE` does what the phase commands do after it has cleared the record. -/
theorem State.DecOK.decodePhase_agrees (hd : s.DecOK) (hb : s.BitsOK) :
    s.decodePhase.AgreesButAnswer s.cleared.phases := by
  have hstep : ∀ {i : Instr} {t u : State}, i ∈ [Instr.bma, .chien, .omega, .forney, .correct] → KeepsSetup s t →
      t.AgreesButAnswer u → (commandEffect i t).AgreesButAnswer (u.after i) := fun {i t u} hi hkeep hagree => by
    have hpass := t.firstFailing_decChecks.2.2 (hd.of_keepsSetup hkeep)
    refine hagree.after (List.mem_cons_of_mem _ hi) ?_
    simp only [List.mem_cons, List.not_mem_nil, or_false] at hi
    obtain rfl | rfl | rfl | rfl | rfl := hi <;> exact hpass
  have hclear := s.clearDecode_keepsSetup
  have hsynd : s.withSyndromes.AgreesButAnswer (s.clearDecode.after .synd) :=
    (State.AgreesButAnswer.refl s.clearDecode).after (i := .synd) (by decide)
      (firstFailing_wordChecks (hd.of_keepsSetup hclear) (hb.of_keepsSetup hclear s.clearDecode_arr_cw))
  have hkeep := s.withSyndromes_keepsSetup
  have hkeep' := s.searched_keepsSetup
  have hsearch : s.searched.AgreesButAnswer (((s.clearDecode.after .synd).after .bma).after .chien) :=
    hstep (i := .chien) (by decide) (hkeep.trans s.withSyndromes.bmaPhase_keepsSetup)
      (hstep (i := .bma) (by decide) hkeep hsynd)
  have homega := hkeep'.trans s.searched.omegaPhase_keepsSetup
  rw [s.decodePhase_eq, s.cleared_eq, State.phases]
  dsimp only
  rw [hsynd.status, hsearch.status, hsearch.mode]
  split
  · exact hstep (i := .correct) (by decide) hkeep hsynd
  · split
    · exact hstep (i := .correct) (by decide) (homega.trans (State.forneyPhase_keepsSetup _))
        (hstep (i := .forney) (by decide) homega (hstep (i := .omega) (by decide) hkeep' hsearch))
    · exact hstep (i := .correct) (by decide) hkeep' hsearch

end Phases

theorem State.DecOK.exec_decode {s : State} (hd : s.DecOK) (hb : s.BitsOK) :
    exec .decode s = .next (s.decodePhase.answered (flagValue s.decodePhase.status.ok)) :=
  exec_of_pass (i := .decode) (firstFailing_wordChecks hd hb)

/-- Settles O45: each phase command in turn does what the phase does inside `DECODE`. -/
theorem decodeRunsThePhases : Obligations.DecodeRunsThePhases := by
  obtain ⟨hword, himm, hnofield, hnodec⟩ :=
    decoderCommand_word_and_checks (i := .decode) (fn := 12) (by decide) rfl (by decide) (by decide)
  refine ⟨hword, himm, hnofield, hnodec,
    fun s hd hb => exec_of_fail (k := .operandRange) (hd.firstFailing_of_not_bitsOK hb), fun s hd hb => ?_⟩
  have hagree := hd.decodePhase_agrees hb
  rw [hd.exec_decode hb, hagree.status, ← s.decodePhase_keepsSetup.responses, hagree.answered_eq]
  rfl

end Sys2Proof.Machine

/-! ## `DECODE` over a field

Syndromes are power sums whose locators are the powers of α, so what `DECODE` finds and what it writes is what the
algebra of power sums says of a shortest register. -/

namespace Sys2Proof.Machine

open Polynomial Decoding

/-! ### Locators and syndromes (44_decoder.md R201, R210) -/

/-- The locator `α^i` of position `i`. -/
def FieldReading.locator {F : GF} {K : Type} [Field K] (ψ : FieldReading F K) (i : Nat) : K := ψ.val (F.alpha i)

theorem GF.Closed.elem_horner {F : GF} (hF : F.Closed) {p : Nat → Cell} {k : Nat} (hp : ∀ i, i < k → F.Elem (p i))
    (x : Cell) : F.Elem (horner F p k x) := by
  have hloop : ∀ (k : Nat) (acc : Cell), (∀ i, i < k → F.Elem (p i)) → F.Elem acc →
      F.Elem (hornerLoop F p x k acc) := by
    intro k
    induction k with
    | zero => exact fun _ _ hacc => hacc
    | succ k ih =>
      intro acc hp _
      exact ih _ (fun i hi => hp i (by omega)) (GF.elem_gfAdd (hF.elem_mul _ _) (hp k (by omega)))
  exact hloop k 0 hp F.elem_zero

section Syndromes

variable {s : State} (h : s.Ready) {K : Type} [Field K] (ψ : FieldReading s.gf K)
include h

theorem State.Ready.locator_pow (i j : Nat) : ψ.locator i ^ j = ψ.val (s.gf.alpha (i * j)) := by
  have hf := h.fieldReady
  induction j with
  | zero => rw [pow_zero, Nat.mul_zero, hf.alpha_zero, ψ.val_one]
  | succ j ih =>
    rw [pow_succ, ih, FieldReading.locator, ← ψ.val_mul (hf.isElement_alpha _) (hf.isElement_alpha _), hf.mul_alpha,
      Nat.mul_succ]

theorem State.Ready.locator_ne_zero (i : Nat) : ψ.locator i ≠ 0 := fun h0 =>
  h.fieldReady.alpha_ne_zero i ((ψ.val_eq_zero_iff (h.fieldReady.isElement_alpha i)).1 h0)

theorem State.Ready.val_alphaNeg (i : Nat) : ψ.val (s.gf.alphaNeg i) = (ψ.locator i)⁻¹ := by
  have hf := h.fieldReady
  have hinv : s.gf.alphaNeg i = s.gf.inv (s.gf.alpha i) := (hf.inv_alpha i).symm
  refine eq_inv_of_mul_eq_one_right ?_
  rw [hinv, FieldReading.locator, ← ψ.val_mul (hf.isElement_alpha i)
    (hf.isElement_inv (hf.isElement_alpha i) (hf.alpha_ne_zero i)),
    hf.mul_inv_cancel (hf.isElement_alpha i) (hf.alpha_ne_zero i), ψ.val_one]

theorem State.Ready.elem_alphaNeg (i : Nat) : s.isElement (s.gf.alphaNeg i) := h.closed.expAt _

/-- Positions below `N` have different locators, since `N` is at most `ORD`. -/
theorem State.Ready.locators {P : Finset Nat} (hP : ∀ i ∈ P, i < s.n.toNat) : Locators P ψ.locator where
  injOn i hi j hj hij := by
    have hf := h.fieldReady
    have hmod := hf.alpha_eq_alpha_iff.1 (ψ.val_injective (hf.isElement_alpha i) (hf.isElement_alpha j) hij)
    rwa [Nat.mod_eq_of_lt ((hP i hi).trans_le h.length_le), Nat.mod_eq_of_lt ((hP j hj).trans_le h.length_le)] at hmod
  ne_zero i _ := h.locator_ne_zero ψ i

theorem State.Ready.elem_syndrome {w : Nat → Cell} (hw : ∀ i, i < s.n.toNat → s.isElement (w i)) (j : Nat) :
    s.isElement (s.syndrome w j) := h.closed.elem_horner hw _

/-- The syndromes of a word are the power sums of its symbols. -/
theorem State.Ready.val_syndrome {w : Nat → Cell} (hw : ∀ i, i < s.n.toNat → s.isElement (w i)) (j : Nat) :
    ψ.val (s.syndrome w j) = powerSum (Finset.range s.n.toNat) ψ.locator (fun i => ψ.val (w i)) j := by
  rw [State.syndrome, ψ.val_horner hw (h.fieldReady.isElement_alpha _), powerSum]
  exact Finset.sum_congr rfl fun i _ => by
    rw [h.locator_pow, Nat.mul_comm, ← h.locator_pow, FieldReading.locator]

/-- Changes at some positions add their power sums to the syndromes. -/
theorem State.Ready.val_syndrome_change {w w' v : Nat → Cell} {P : Finset Nat} (hP : ∀ i ∈ P, i < s.n.toNat)
    (hw : ∀ i, i < s.n.toNat → s.isElement (w i)) (hv : ∀ i, i < s.n.toNat → s.isElement (v i))
    (hchange : ∀ i, i < s.n.toNat → w' i = w i ^^^ if i ∈ P then v i else 0) (j : Nat) :
    ψ.val (s.syndrome w' j) = ψ.val (s.syndrome w j) + powerSum P ψ.locator (fun i => ψ.val (v i)) j := by
  have helem : ∀ i, i < s.n.toNat → s.isElement (if i ∈ P then v i else 0) := fun i hi => by
    split
    · exact hv i hi
    · exact s.isElement_zero
  have hw' : ∀ i, i < s.n.toNat → s.isElement (w' i) := fun i hi => by
    rw [hchange i hi]
    exact GF.elem_gfAdd (F := s.gf) (hw i hi) (helem i hi)
  have hterm : ∀ i ∈ Finset.range s.n.toNat, ψ.val (w' i) * ψ.locator i ^ (j + 1) =
      ψ.val (w i) * ψ.locator i ^ (j + 1) + if i ∈ P then ψ.val (v i) * ψ.locator i ^ (j + 1) else 0 := fun i hi => by
    have hi := Finset.mem_range.1 hi
    rw [hchange i hi, ψ.val_xor (hw i hi) (helem i hi), add_mul]
    split
    · rfl
    · rw [ψ.val_zero, zero_mul]
  have hsubset : P ⊆ Finset.range s.n.toNat := fun i hi => Finset.mem_range.2 (hP i hi)
  rw [h.val_syndrome ψ hw', h.val_syndrome ψ hw, powerSum, powerSum, powerSum, Finset.sum_congr rfl hterm,
    Finset.sum_add_distrib, Finset.sum_ite_mem, Finset.inter_eq_right.2 hsubset]

end Syndromes

end Sys2Proof.Machine

/-! ## After the search

What `SYND`, `BMA` and `CHIEN` leave, and what the algebra of power sums says of it: where there are as many roots as
`L`, at most T, the magnitudes of the next phases make the received word one of the code. -/

namespace Sys2Proof.Machine

open Polynomial Decoding

/-- What the phases up to the search leave (44_decoder.md R202, R205, R214). -/
structure State.SearchDone (u : State) {F : GF} {K : Type} [Field K] (ψ : FieldReading F K) : Prop where
  ready : u.Ready
  decOK : u.DecOK
  syn : ∀ j, u.coef .syn j = if j < 2 * u.t.toNat then u.syndrome (u.coef .cw) j else 0
  generates : Generates (ψ.poly (u.arr .syn)) (ψ.poly (u.arr .lam)) u.l.toNat (2 * u.t.toNat)
  minimal : ∀ Λ N, Generates (ψ.poly (u.arr .syn)) Λ N (2 * u.t.toNat) → u.l.toNat ≤ N
  nroots : u.nroots.toNat = u.chienRoots.length
  epos : ∀ j, (u.coef .epos j).toNat = u.chienRoots.getD j 0
  tmr : u.status.tmr = tmrFlag u.chienRoots.length u.t
  rlm : u.status.rlm = rlmFlag u.chienRoots.length u.l

/-- The search found as many positions as `L`, and no more than T (44_decoder.md R214). -/
def State.Located (u : State) : Prop := u.chienRoots.length = u.l.toNat ∧ u.chienRoots.length ≤ u.t.toNat

/-- What is added to the cell at a listed position `i` (44_decoder.md R218, R222). -/
def State.errorValue (u : State) (i : Nat) : Cell :=
  if u.mode = .bch then 1 else u.omegaPhase.forneyValue (BitVec.ofNat 12 i)

section Search

variable {u : State} {K : Type} [Field K] {ψ : FieldReading u.gf K} (hu : u.SearchDone ψ)
include hu

theorem State.SearchDone.located_iff : u.Located ↔ u.status.tmr = false ∧ u.status.rlm = false := by
  rw [hu.tmr, hu.rlm, tmrFlag, rlmFlag, decide_eq_false_iff_not, Nat.not_lt, bne_eq_false_iff_eq, State.Located,
    and_comm]

/-! ### Syndromes and roots over the field -/

theorem State.SearchDone.isElement_cw (i : Nat) : u.isElement (u.coef .cw i) := (hu.ready.isPoly .cw).read i

theorem State.SearchDone.coeff_syn {q : Nat} (hq : q < 2 * u.t.toNat) :
    (ψ.poly (u.arr .syn)).coeff q = ψ.val (u.syndrome (u.coef .cw) q) := by
  rw [ψ.poly_coeff, ← if_pos (c := q < 2 * u.t.toNat) hq (t := u.syndrome (u.coef .cw) q) (e := 0), ← hu.syn q]
  rfl

theorem State.SearchDone.mem_chienRoots_iff {i : Nat} :
    i ∈ u.chienRoots ↔ i < u.n.toNat ∧ (ψ.poly (u.arr .lam)).eval (ψ.locator i)⁻¹ = 0 := by
  have hlam := hu.ready.isPoly .lam
  rw [u.mem_chienRoots, ← hu.ready.val_alphaNeg, ψ.poly_eval hlam (hu.ready.elem_alphaNeg i),
    ψ.val_eq_zero_iff (hu.ready.closed.elem_polyEval hlam _)]
  rfl

omit hu in
theorem State.card_chienRoots (u : State) : u.chienRoots.toFinset.card = u.chienRoots.length :=
  List.toFinset_card_of_nodup (u.chienRoots_pairwise.imp fun hlt => hlt.ne)

omit hu in
theorem State.Located.card_eq (hl : u.Located) : u.chienRoots.toFinset.card = u.l.toNat := u.card_chienRoots.trans hl.1

theorem State.SearchDone.locators : Locators u.chienRoots.toFinset ψ.locator :=
  hu.ready.locators ψ fun _ hi => (u.mem_chienRoots.1 (List.mem_toFinset.1 hi)).1

theorem State.SearchDone.eval_lam {i : Nat} (hi : i ∈ u.chienRoots.toFinset) :
    (ψ.poly (u.arr .lam)).eval (ψ.locator i)⁻¹ = 0 := (hu.mem_chienRoots_iff.1 (List.mem_toFinset.1 hi)).2

/-! ### Forney's formula (R216, R218) -/

theorem State.SearchDone.val_forneyDen {i : Nat} (hi : i < u.n.toNat) :
    ψ.val (u.forneyDen (BitVec.ofNat 12 i)) = (derivative (ψ.poly (u.arr .lam))).eval (ψ.locator i)⁻¹ := by
  rw [State.forneyDen, toNat_ofNat_cell (hi.trans u.n.isLt), ← ψ.poly_polyDeriv, ← hu.ready.val_alphaNeg,
    ψ.poly_eval (GF.IsPoly.polyDeriv (hu.ready.isPoly .lam)) (hu.ready.elem_alphaNeg i)]
  rfl

/-- The coefficients of `OMG` are those of the product below `2T`, and 0 above. -/
theorem State.SearchDone.coeff_omg (q : Nat) : (ψ.poly (u.omegaPhase.arr .omg)).coeff q =
    if q < 2 * u.t.toNat then (ψ.poly (u.arr .lam) * ψ.poly (u.arr .syn)).coeff q else 0 := by
  rw [ψ.poly_coeff]
  change ψ.val (u.omegaPhase.coef .omg q) = _
  rw [u.omegaPhase_coef_omg]
  split
  · rw [mul_comm, ψ.poly_mul_coeff (hu.ready.isPoly .syn) (hu.ready.isPoly .lam)]
    rfl
  · exact ψ.val_zero

section Located

variable (hl : u.Located)
include hl

/-- No Forney denominator is 0 (R231). -/
theorem State.SearchDone.forneyDen_ne_zero {i : Nat} (hi : i ∈ u.chienRoots) :
    u.forneyDen (BitVec.ofNat 12 i) ≠ 0 := fun h0 => by
  have hne := eval_derivative_ne_zero hu.locators (fun _ => hu.eval_lam) hu.generates.coeff_zero
    (hu.generates.natDegree_le.trans hl.card_eq.ge) (List.mem_toFinset.2 hi)
  rw [← hu.val_forneyDen (u.mem_chienRoots.1 hi).1, h0] at hne
  exact hne ψ.val_zero

theorem State.SearchDone.val_forneyValue {i : Nat} (hi : i ∈ u.chienRoots) :
    ψ.val (u.omegaPhase.forneyValue (BitVec.ofNat 12 i)) * (derivative (ψ.poly (u.arr .lam))).eval (ψ.locator i)⁻¹ =
      (ψ.poly (u.omegaPhase.arr .omg)).eval (ψ.locator i)⁻¹ := by
  have h := hu.ready
  have hlt := (u.mem_chienRoots.1 hi).1
  have hne := hu.forneyDen_ne_zero hl hi
  have helem : u.isElement (u.forneyDen (BitVec.ofNat 12 i)) :=
    h.closed.elem_polyEval (GF.IsPoly.polyDeriv (h.isPoly .lam)) _
  have homg : u.gf.IsPoly (u.omegaPhase.arr .omg) := h.omegaPhase.isPoly .omg
  have hvalue : u.omegaPhase.forneyValue (BitVec.ofNat 12 i) = u.gf.quot
      (polyEval u.gf (u.omegaPhase.arr .omg) (u.gf.alphaNeg i)) (u.forneyDen (BitVec.ofNat 12 i)) := by
    rw [State.forneyValue, toNat_ofNat_cell (hlt.trans u.n.isLt)]
    exact if_neg hne
  rw [hvalue, ← hu.val_forneyDen hlt, ← h.val_alphaNeg, ψ.poly_eval homg (h.elem_alphaNeg i),
    ← ψ.val_mul (h.closed.elem_quot _ _) helem, h.fieldReady.quot_mul_cancel (h.closed.elem_polyEval homg _) helem hne]

/-- The values of Forney's formula leave the syndromes. -/
theorem State.SearchDone.coeff_syn_eq_forney {q : Nat} (hq : q < 2 * u.t.toNat) :
    (ψ.poly (u.arr .syn)).coeff q = powerSum u.chienRoots.toFinset ψ.locator
      (fun i => ψ.val (u.omegaPhase.forneyValue (BitVec.ofNat 12 i))) q := by
  have := ψ.charTwo
  have hgen := hu.generates
  rw [← hl.card_eq] at hgen
  refine coeff_eq_powerSum_of_forney hgen hu.locators (fun _ => hu.eval_lam) (fun q hq => ?_) (fun q hcard => ?_)
    (fun i hi => hu.val_forneyValue hl (List.mem_toFinset.1 hi)) hq
  · rw [hu.coeff_omg, if_pos hq]
  · rw [hu.coeff_omg]
    split
    case isTrue hq => exact hgen.recurrence q hcard hq
    case isFalse => rfl

end Located

/-- The syndromes of bits square (R203). -/
theorem State.SearchDone.coeff_syn_square (hmode : u.mode = .bch) (hb : u.BitsOK) {j : Nat} (hj : j < u.t.toNat) :
    (ψ.poly (u.arr .syn)).coeff (2 * j + 1) = (ψ.poly (u.arr .syn)).coeff j ^ 2 := by
  have := ψ.charTwo
  rw [hu.coeff_syn (by omega), hu.coeff_syn (by omega), hu.ready.val_syndrome ψ fun i _ => hu.isElement_cw i,
    hu.ready.val_syndrome ψ fun i _ => hu.isElement_cw i, powerSum, powerSum, CharTwo.sum_sq]
  refine Finset.sum_congr rfl fun i hi => ?_
  have hbit : u.coef .cw i = 0 ∨ u.coef .cw i = 1 := by
    have hle := hb hmode i (Finset.mem_range.1 hi)
    obtain h0 | h1 : (u.coef .cw i).toNat = 0 ∨ (u.coef .cw i).toNat = 1 := by omega
    · exact .inl (BitVec.eq_of_toNat_eq h0)
    · exact .inr (BitVec.eq_of_toNat_eq h1)
  obtain h0 | h1 := hbit
  · rw [h0, ψ.val_zero]
    ring
  · rw [h1, ψ.val_one]
    ring

theorem State.SearchDone.elem_errorValue (i : Nat) : u.isElement (u.errorValue i) := by
  rw [State.errorValue]
  split
  · exact hu.ready.closed.elem_one
  · exact hu.ready.omegaPhase.elem_forneyValue _

/-- What is added at the listed positions leaves the syndromes of the received word. -/
theorem State.SearchDone.coeff_syn_eq (hl : u.Located) (hb : u.BitsOK) {q : Nat} (hq : q < 2 * u.t.toNat) :
    (ψ.poly (u.arr .syn)).coeff q =
      powerSum u.chienRoots.toFinset ψ.locator (fun i => ψ.val (u.errorValue i)) q := by
  have := ψ.charTwo
  rw [hu.coeff_syn_eq_forney hl hq, powerSum, powerSum]
  refine Finset.sum_congr rfl fun i hi => ?_
  rw [State.errorValue]
  split
  case isFalse => rfl
  case isTrue hmode =>
    have hcard := u.card_chienRoots
    obtain ⟨hlength, ht⟩ := hl
    rw [ψ.val_one, eq_one_of_squares hu.locators (fun j hj => hu.coeff_syn_eq_forney ⟨hlength, ht⟩ hj)
      (fun j hj => hu.coeff_syn_square hmode hb hj) (hcard.trans_le ht)
      (fun Λ N hgen => (hcard.trans hlength).trans_le (hu.minimal Λ N hgen)) hi]

end Search

end Sys2Proof.Machine

/-! ## The correction (44_decoder.md R222, R231) -/

namespace Sys2Proof.Machine

open Polynomial Decoding

/-- A sum over a list of places has at most one term for each of them. -/
theorem xorSum_getD {l : List Nat} (hl : l.Nodup) {f g : Nat → Cell} (hf : ∀ j, j < l.length → f j = g (l.getD j 0))
    (i : Nat) : xorSum l.length (fun j => if l.getD j 0 = i then f j else 0) = if i ∈ l then g i else 0 := by
  by_cases hi : i ∈ l
  · obtain ⟨k, hk, hget⟩ := List.getElem_of_mem hi
    have hself : l.getD k 0 = i := by rw [List.getD_eq_getElem _ _ hk, hget]
    rw [if_pos hi, xorSum_eq_single hk fun j hj hne => if_neg ?_, if_pos hself, hf k hk, hself]
    rw [List.getD_eq_getElem _ _ hj, ← hget, hl.getElem_inj_iff]
    exact hne
  · rw [if_neg hi]
    refine xorSum_eq_zero fun j hj => if_neg ?_
    rintro rfl
    rw [List.getD_eq_getElem _ _ hj] at hi
    exact hi (List.getElem_mem hj)

/-- The state of `DECODE` where there is something to correct. -/
def State.corrected (u : State) : State := u.magnitudePhase.applyCorrection

theorem State.magnitudePhase_of_bch {u : State} (hmode : u.mode = .bch) : u.magnitudePhase = u := by
  rw [State.magnitudePhase, hmode]

theorem State.magnitudePhase_of_rs {u : State} (hmode : u.mode = .rs) :
    u.magnitudePhase = u.omegaPhase.forneyPhase := by rw [State.magnitudePhase, hmode]

/-- The magnitudes leave what the search found. -/
theorem State.magnitudePhase_keeps (u : State) : u.magnitudePhase.nroots = u.nroots ∧ u.magnitudePhase.l = u.l ∧
    u.magnitudePhase.arr .epos = u.arr .epos ∧ u.magnitudePhase.arr .cw = u.arr .cw := by
  cases hmode : u.mode with
  | bch => rw [u.magnitudePhase_of_bch hmode]; exact ⟨rfl, rfl, rfl, rfl⟩
  | rs => rw [u.magnitudePhase_of_rs hmode]; exact ⟨rfl, rfl, rfl, rfl⟩

section Search

variable {u : State} {K : Type} [Field K] {ψ : FieldReading u.gf K} (hu : u.SearchDone ψ)
include hu

theorem State.SearchDone.magnitude_eq_errorValue {j : Nat} (hj : j < u.chienRoots.length) :
    u.magnitudePhase.magnitude j = u.errorValue (u.chienRoots.getD j 0) := by
  rw [State.magnitude_eq, State.errorValue]
  cases hmode : u.mode with
  | bch =>
    rw [u.magnitudePhase_of_bch hmode, hmode]
    rfl
  | rs =>
    have hmode' : u.omegaPhase.forneyPhase.mode ≠ .bch := by
      change u.mode ≠ .bch
      rw [hmode]
      decide
    have hnroots : j < u.omegaPhase.nroots.toNat := hj.trans_eq hu.nroots.symm
    have hepos : u.omegaPhase.coef .epos j = BitVec.ofNat 12 (u.chienRoots.getD j 0) := by
      rw [← hu.epos, BitVec.ofNat_toNat, BitVec.setWidth_eq]
      rfl
    rw [u.magnitudePhase_of_rs hmode, if_neg hmode', State.forneyPhase_coef_eval, if_pos hnroots, hepos]
    rfl

/-- The correction adds the error values at the listed positions. -/
theorem State.SearchDone.corrected_coef_cw {i : Nat} (hi : i < u.n.toNat) :
    u.corrected.coef .cw i = u.coef .cw i ^^^ if i ∈ u.chienRoots then u.errorValue i else 0 := by
  obtain ⟨hnroots, -, hepos, hcw⟩ := u.magnitudePhase_keeps
  have hnodup : u.chienRoots.Nodup := u.chienRoots_pairwise.imp fun hlt => hlt.ne
  rw [State.corrected, State.applyCorrection_coef_cw _ (hi.trans_eq (by rw [u.magnitudePhase_keepsSetup.n])), hnroots,
    hu.nroots, ← xorSum_getD hnodup (fun j hj => hu.magnitude_eq_errorValue hj), State.coef, hcw]
  simp only [State.coef, hepos, ← hu.epos]

/-- What the correction leaves is a word of the code (R232). -/
theorem State.SearchDone.corrected_inCode (hl : u.Located) (hb : u.BitsOK) : u.InCode (u.corrected.coef .cw) := by
  intro j hj
  have := ψ.charTwo
  have h := hu.ready
  have hP : ∀ i ∈ u.chienRoots.toFinset, i < u.n.toNat := fun i hi => (u.mem_chienRoots.1 (List.mem_toFinset.1 hi)).1
  have hcw : ∀ i, i < u.n.toNat → u.isElement (u.corrected.coef .cw i) := fun i hi => by
    rw [hu.corrected_coef_cw hi]
    refine GF.elem_gfAdd (F := u.gf) (hu.isElement_cw i) ?_
    split
    · exact hu.elem_errorValue i
    · exact u.isElement_zero
  refine (ψ.val_eq_zero_iff (h.elem_syndrome hcw j)).1 ?_
  rw [h.val_syndrome_change ψ hP (fun i _ => hu.isElement_cw i) (fun i _ => hu.elem_errorValue i)
    (fun i hi => by rw [hu.corrected_coef_cw hi]; simp only [List.mem_toFinset]), ← hu.coeff_syn hj,
    hu.coeff_syn_eq hl hb hj, CharTwo.add_self_eq_zero]

/-- The correction changes no more symbols than the search listed. -/
theorem State.SearchDone.length_changes_le : ((List.range u.n.toNat).filter fun i =>
    u.corrected.coef .cw i != u.coef .cw i).length ≤ u.chienRoots.length := by
  refine (List.subperm_of_subset (List.nodup_range.filter _) fun i hi => ?_).length_le
  obtain ⟨hi, hne⟩ := List.mem_filter.1 hi
  by_contra hno
  rw [hu.corrected_coef_cw (List.mem_range.1 hi), if_neg hno] at hne
  exact bne_iff_ne.1 hne BitVec.xor_zero

theorem State.SearchDone.corrected_bitsOK (hb : u.BitsOK) : u.corrected.BitsOK := by
  have hkeep := u.magnitudePhase_keepsSetup.trans u.magnitudePhase.applyCorrection_keepsSetup
  intro hmode i hi
  rw [State.corrected, hkeep.mode] at hmode
  rw [State.corrected, hkeep.n] at hi
  rw [hu.corrected_coef_cw hi]
  refine xor_toNat_le_one (hb hmode i hi) ?_
  split
  · rw [State.errorValue, if_pos hmode]
    exact le_rfl
  · exact Nat.zero_le 1

/-! ### The record -/

/-- `FDZ` is not set where the search succeeded (R231). -/
theorem State.SearchDone.magnitudePhase_status (hl : u.Located) (hfdz : u.status.fdz = false) :
    u.magnitudePhase.status = u.status := by
  cases hmode : u.mode with
  | bch => rw [u.magnitudePhase_of_bch hmode]
  | rs =>
    have hnone : u.omegaPhase.forneyPhase.status.fdz = false := by
      rw [← Bool.not_eq_true, State.forneyPhase_fdz_eq_true_iff]
      rintro ⟨j, hj, hzero⟩
      have hj : j < u.chienRoots.length := hj.trans_eq hu.nroots
      refine hu.forneyDen_ne_zero hl (List.getElem_mem hj) ?_
      have hepos : u.coef .epos j = BitVec.ofNat 12 u.chienRoots[j] := by
        rw [← List.getD_eq_getElem _ 0 hj, ← hu.epos, BitVec.ofNat_toNat, BitVec.setWidth_eq]
      rw [← hepos]
      exact hzero
    rw [u.magnitudePhase_of_rs hmode]
    change (⟨_, _, _, _, _, u.omegaPhase.forneyPhase.status.fdz⟩ : Status) = _
    rw [hnone, ← hfdz]
    rfl

theorem State.SearchDone.finishDecode_of_located (hl : u.Located) (hfdz : u.status.fdz = false) :
    u.finishDecode = u.corrected := by
  obtain ⟨htmr, hrlm⟩ := hu.located_iff.1 hl
  rw [State.finishDecode, htmr, hrlm, if_neg (by decide)]
  dsimp only
  rw [hu.magnitudePhase_status hl hfdz, hfdz, Bool.and_false, if_neg Bool.false_ne_true, State.corrected]

theorem State.SearchDone.finishDecode_of_not_located (hl : ¬u.Located) : u.finishDecode = u := by
  rw [hu.located_iff, ← Bool.or_eq_false_iff, Bool.not_eq_false] at hl
  rw [State.finishDecode, if_pos hl]

/-- The registers a correction leaves. -/
theorem State.SearchDone.corrected_record (hl : u.Located) (hfdz : u.status.fdz = false) :
    u.corrected.status = { u.status with ok := true } ∧ u.corrected.ecnt = u.nroots ∧ u.corrected.nroots = u.nroots ∧
      u.corrected.l = u.l ∧ u.corrected.arr .epos = u.arr .epos := by
  obtain ⟨hnroots, hl', hepos, -⟩ := u.magnitudePhase_keeps
  rw [← hu.magnitudePhase_status hl hfdz, ← hnroots, ← hl', ← hepos]
  exact ⟨rfl, rfl, rfl, rfl, State.setArr_arr_other _ _ (show ArrSel.epos ≠ .cw by decide)⟩

end Search

end Sys2Proof.Machine

/-! ## What `DECODE` answers (44_decoder.md R231, R232) -/

namespace Sys2Proof.Machine

open Polynomial Decoding

/-! ### Errors that can be located -/

/-- `CW` holds the word `c` of the code with errors `e` at the positions of `P`, at most T of them. -/
structure State.Errors (u : State) (c e : Nat → Cell) (P : Finset Nat) : Prop where
  inCode : u.InCode c
  elem_word : ∀ i, i < u.n.toNat → u.isElement (c i)
  elem : ∀ i, i < u.n.toNat → u.isElement (e i)
  lt : ∀ i ∈ P, i < u.n.toNat
  ne_zero : ∀ i ∈ P, e i ≠ 0
  card_le : P.card ≤ u.t.toNat
  cw : ∀ i, i < u.n.toNat → u.coef .cw i = c i ^^^ if i ∈ P then e i else 0

section Search

variable {u : State} {K : Type} [Field K] {ψ : FieldReading u.gf K} (hu : u.SearchDone ψ)
include hu

theorem State.SearchDone.one_le_l (hno : ¬u.InCode (u.coef .cw)) : 1 ≤ u.l.toNat := by
  by_contra hlt
  refine hno fun j hj => ?_
  have hzero := coeff_eq_zero_of_mul hu.generates.coeff_zero
    (fun q hq => hu.generates.recurrence q (by omega) hq) hj
  rw [hu.coeff_syn hj] at hzero
  exact (ψ.val_eq_zero_iff (hu.ready.elem_syndrome (fun i _ => hu.isElement_cw i) j)).1 hzero

section Errors

variable {c e : Nat → Cell} {P : Finset Nat} (he : u.Errors c e P)
include he

/-- The syndromes are the errors' alone (R210). -/
theorem State.SearchDone.coeff_syn_of_errors {q : Nat} (hq : q < 2 * u.t.toNat) :
    (ψ.poly (u.arr .syn)).coeff q = powerSum P ψ.locator (fun i => ψ.val (e i)) q := by
  rw [hu.coeff_syn hq, hu.ready.val_syndrome_change ψ he.lt he.elem_word he.elem he.cw, he.inCode q hq, ψ.val_zero,
    zero_add]

omit hu in
theorem State.Errors.val_ne_zero (ψ : FieldReading u.gf K) {i : Nat} (hi : i ∈ P) : ψ.val (e i) ≠ 0 := fun h0 =>
  he.ne_zero i hi ((ψ.val_eq_zero_iff (he.elem i (he.lt i hi))).1 h0)

theorem State.SearchDone.not_inCode_of_errors (hne : P.Nonempty) : ¬u.InCode (u.coef .cw) := fun hc => by
  obtain ⟨i, hi⟩ := hne
  have hcard := he.card_le
  refine he.val_ne_zero ψ hi (eq_of_powerSum_eq (n := 2 * u.t.toNat) (e := fun i => ψ.val (e i))
    (e' := fun _ => 0) (hu.ready.locators ψ he.lt) (by omega) (fun j hj => ?_) hi)
  rw [← hu.coeff_syn_of_errors he hj, hu.coeff_syn hj, hc j hj, ψ.val_zero, powerSum]
  exact (Finset.sum_eq_zero fun i _ => zero_mul _).symm

/-- A shortest register for the syndromes of at most T errors has their positions for its roots. -/
theorem State.SearchDone.l_eq_card_and_roots : u.l.toNat = P.card ∧ u.chienRoots.toFinset = P := by
  have hx := hu.ready.locators ψ he.lt
  have hS := fun q => hu.coeff_syn_of_errors he (q := q)
  have hcard := he.card_le
  have hle : u.l.toNat ≤ P.card := hu.minimal _ _ (generates_locatorPoly hx hS)
  have hroot : ∀ i ∈ P, (ψ.poly (u.arr .lam)).eval (ψ.locator i)⁻¹ = 0 := fun i hi =>
    eval_eq_zero_of_generates hu.generates hx hS (fun i hi => he.val_ne_zero ψ hi) (by omega) hi
  have hone := hu.generates.coeff_zero
  have hge := (card_le_natDegree hx hroot (ne_zero_of_coeff_zero hone)).trans hu.generates.natDegree_le
  refine ⟨hle.antisymm hge, Finset.ext fun i => ?_⟩
  rw [List.mem_toFinset, hu.mem_chienRoots_iff]
  refine ⟨fun ⟨hi, hzero⟩ => ?_, fun hi => ⟨he.lt i hi, hroot i hi⟩⟩
  obtain ⟨j, hj, hij⟩ := exists_of_eval_eq_zero hx hroot hone (hu.generates.natDegree_le.trans hle) hzero
  have hrange := hu.ready.locators ψ (P := Finset.range u.n.toNat) fun i hi => Finset.mem_range.1 hi
  rwa [hrange.injOn (Finset.mem_coe.2 (Finset.mem_range.2 hi)) (Finset.mem_coe.2 (Finset.mem_range.2 (he.lt j hj))) hij]

theorem State.SearchDone.located_of_errors : u.Located := by
  obtain ⟨hl, hroots⟩ := hu.l_eq_card_and_roots he
  have hlength : u.chienRoots.length = P.card := by rw [← u.card_chienRoots, hroots]
  exact ⟨hlength.trans hl.symm, hlength.trans_le he.card_le⟩

/-- The magnitudes are the errors, since both leave the syndromes. -/
theorem State.SearchDone.errorValue_eq (hb : u.BitsOK) {i : Nat} (hi : i ∈ P) : u.errorValue i = e i := by
  obtain ⟨-, hroots⟩ := hu.l_eq_card_and_roots he
  have hcard := he.card_le
  refine ψ.val_injective (hu.elem_errorValue i) (he.elem i (he.lt i hi))
    (eq_of_powerSum_eq (n := 2 * u.t.toNat) (e := fun i => ψ.val (u.errorValue i)) (e' := fun i => ψ.val (e i))
      (hu.ready.locators ψ he.lt) (by omega) (fun j hj => ?_) hi)
  rw [← hu.coeff_syn_of_errors he hj, hu.coeff_syn_eq (hu.located_of_errors he) hb hj, hroots]

/-- The correction takes the errors back. -/
theorem State.SearchDone.corrected_coef_cw_of_errors (hb : u.BitsOK) {i : Nat} (hi : i < u.n.toNat) :
    u.corrected.coef .cw i = c i := by
  have hroots : i ∈ u.chienRoots ↔ i ∈ P := by rw [← (hu.l_eq_card_and_roots he).2, List.mem_toFinset]
  have hsame : (if i ∈ u.chienRoots then u.errorValue i else 0) = if i ∈ P then e i else 0 := by
    by_cases hP : i ∈ P
    · rw [if_pos hP, if_pos (hroots.2 hP), hu.errorValue_eq he hb hP]
    · rw [if_neg hP, if_neg (mt hroots.1 hP)]
  rw [hu.corrected_coef_cw hi, he.cw i hi, hsame, BitVec.xor_assoc, BitVec.xor_self, BitVec.xor_zero]

end Errors

end Search

/-! ### The states of `DECODE` -/

section Decode

variable {s : State}

theorem KeepsSetup.syndrome {s' : State} (h : KeepsSetup s s') : s'.syndrome = s.syndrome := by
  funext w j
  rw [State.syndrome, State.syndrome, h.gf, h.n]

theorem KeepsSetup.inCode_iff {s' : State} (h : KeepsSetup s s') {w : Nat → Cell} : s'.InCode w ↔ s.InCode w := by
  rw [State.InCode, State.InCode, h.syndrome, h.t]

theorem State.coef_congr {s' : State} {sel : ArrSel} (h : s'.arr sel = s.arr sel) : s'.coef sel = s.coef sel :=
  congrArg Memory.read h

theorem State.chienPhase_chienRoots (s : State) : s.chienPhase.chienRoots = s.chienRoots := rfl

theorem State.withSyndromes_sz_eq_true_iff (s : State) :
    s.withSyndromes.status.sz = true ↔ s.InCode (s.coef .cw) := by
  rw [State.withSyndromes, State.syndPhase_sz_eq_true_iff_inCode, s.clearDecode_keepsSetup.inCode_iff,
    State.coef_congr s.clearDecode_arr_cw]

theorem State.chienPhase_arr (s : State) {sel : ArrSel} (hsel : sel ≠ .epos) : s.chienPhase.arr sel = s.arr sel := by
  simp [State.chienPhase, hsel]

theorem State.bmaPhase_arr (s : State) {sel : ArrSel} (hlam : sel ≠ .lam) (hbp : sel ≠ .bp) :
    s.bmaPhase.arr sel = s.arr sel := by simp [State.bmaPhase, hlam, hbp]

theorem State.chienPhase_l (s : State) : s.chienPhase.l = s.l := rfl

theorem State.chienPhase_flags (s : State) : s.chienPhase.status.tmr = tmrFlag s.chienRoots.length s.t ∧
    s.chienPhase.status.rlm = rlmFlag s.chienRoots.length s.l := ⟨rfl, rfl⟩

/-- `SYND`, `BMA` and `CHIEN` leave the received word and the evaluator. -/
theorem State.searched_arr (s : State) {sel : ArrSel} (hsel : sel = .cw ∨ sel = .omg) :
    s.withSyndromes.arr sel = s.arr sel ∧ s.searched.arr sel = s.arr sel := by
  have hsynd : s.withSyndromes.arr sel = s.arr sel := by
    obtain rfl | rfl := hsel <;> simp [State.withSyndromes, State.syndPhase, State.clearDecode]
  refine ⟨hsynd, ?_⟩
  obtain rfl | rfl := hsel <;>
    exact (State.chienPhase_arr _ (by decide)).trans ((State.bmaPhase_arr _ (by decide) (by decide)).trans hsynd)

theorem State.Ready.searchDone_of_syndromes (h : s.Ready) (hd : s.DecOK)
    (hsyn : ∀ j, s.coef .syn j = if j < 2 * s.t.toNat then s.syndrome (s.coef .cw) j else 0) {F : GF} (hF : s.gf = F)
    {K : Type} [Field K] (ψ : FieldReading F K) : s.bmaPhase.chienPhase.SearchDone ψ := by
  subst hF
  obtain ⟨hgen, hmin, -⟩ := h.bmaPhase_generates hd ψ
  have hroots := s.bmaPhase.chienPhase_chienRoots
  have hkeep' := s.bmaPhase.chienPhase_keepsSetup
  have hkeep := s.bmaPhase_keepsSetup.trans hkeep'
  have hsyn' : s.bmaPhase.chienPhase.arr .syn = s.arr .syn :=
    (State.chienPhase_arr _ (by decide)).trans (s.bmaPhase_arr (by decide) (by decide))
  have hcw : s.bmaPhase.chienPhase.arr .cw = s.arr .cw :=
    (State.chienPhase_arr _ (by decide)).trans (s.bmaPhase_arr (by decide) (by decide))
  have hlam : s.bmaPhase.chienPhase.arr .lam = s.bmaPhase.arr .lam := State.chienPhase_arr _ (by decide)
  exact
    { ready := h.bmaPhase.chienPhase
      decOK := hd.of_keepsSetup hkeep
      syn := by rwa [hkeep.t, hkeep.syndrome, State.coef_congr hsyn', State.coef_congr hcw]
      generates := by rwa [hsyn', hlam, State.chienPhase_l, hkeep.t]
      minimal := by rwa [hsyn', State.chienPhase_l, hkeep.t]
      nroots := by rw [hroots, State.toNat_chienPhase_nroots]
      epos := fun j => by rw [hroots, State.toNat_chienPhase_coef_epos]
      tmr := by rw [hroots, (State.chienPhase_flags _).1, hkeep'.t]
      rlm := by rw [hroots, (State.chienPhase_flags _).2, State.chienPhase_l] }

theorem State.Ready.searchDone (h : s.Ready) (hd : s.DecOK) {K : Type} [Field K] (ψ : FieldReading s.searched.gf K) :
    s.searched.SearchDone ψ := by
  have hgf : s.withSyndromes.gf = s.searched.gf := s.withSyndromes_keepsSetup.gf.trans s.searched_keepsSetup.gf.symm
  refine State.Ready.searchDone_of_syndromes (s := s.withSyndromes) h.clearDecode.syndPhase
    (hd.of_keepsSetup s.withSyndromes_keepsSetup) (fun j => ?_) hgf ψ
  have hkeep := s.clearDecode.syndPhase_keepsSetup
  rw [State.withSyndromes, State.syndPhase_coef_syn, hkeep.t, hkeep.syndrome,
    State.coef_congr (State.syndPhase_arr_cw _)]

end Decode

end Sys2Proof.Machine

/-! ## The statements on `DECODE` -/

namespace Sys2Proof.Machine

open Decoding

section Decode

variable {s : State}

/-- The elements of the state after the search are a field over which it is a search. -/
theorem State.Ready.exists_searchDone (h : s.Ready) (hd : s.DecOK) :
    ∃ (K : Type) (_ : Field K) (ψ : FieldReading s.searched.gf K), s.searched.SearchDone ψ := by
  have hready : s.searched.Ready := h.clearDecode.syndPhase.bmaPhase.chienPhase
  let _ := Element.field hready
  exact ⟨Element s.searched, Element.field hready, Element.reading hready, h.searchDone hd _⟩

theorem State.searched_coef_cw (s : State) : s.searched.coef .cw = s.coef .cw :=
  State.coef_congr (s.searched_arr (.inl rfl)).2

/-- The search starts from a record without flags. -/
theorem State.withSyndromes_record (s : State) :
    s.withSyndromes.status = ⟨s.status.fv, s.withSyndromes.status.sz, false, false, false, false⟩ ∧
    s.withSyndromes.ecnt = 0 ∧ s.withSyndromes.nroots = 0 := ⟨rfl, rfl, rfl⟩

theorem State.searched_status (s : State) : s.searched.status = ⟨s.status.fv, s.withSyndromes.status.sz, false,
    s.searched.status.tmr, s.searched.status.rlm, false⟩ := rfl

theorem State.decodePhase_of_inCode (hc : s.InCode (s.coef .cw)) :
    s.decodePhase = s.withSyndromes.setStatus { s.withSyndromes.status with ok := true } := by
  rw [s.decodePhase_eq_finishDecode, if_pos (s.withSyndromes_sz_eq_true_iff.2 hc)]

theorem State.decodePhase_of_not_inCode (hc : ¬s.InCode (s.coef .cw)) : s.decodePhase = s.searched.finishDecode := by
  rw [s.decodePhase_eq_finishDecode, if_neg (mt s.withSyndromes_sz_eq_true_iff.1 hc)]

theorem State.withSyndromes_sz_of_not_inCode (hc : ¬s.InCode (s.coef .cw)) : s.withSyndromes.status.sz = false :=
  Bool.eq_false_of_not_eq_true (mt s.withSyndromes_sz_eq_true_iff.1 hc)

/-- The three outcomes of R231: a word of the code, a correction, a failure. -/
theorem State.Ready.decodePhase_cases (h : s.Ready) (hd : s.DecOK) :
    s.InCode (s.coef .cw) ∧ s.decodePhase = s.withSyndromes.setStatus { s.withSyndromes.status with ok := true } ∨
    ¬s.InCode (s.coef .cw) ∧ s.searched.Located ∧ s.decodePhase = s.searched.corrected ∨
    ¬s.InCode (s.coef .cw) ∧ ¬s.searched.Located ∧ s.decodePhase = s.searched := by
  obtain ⟨K, _, ψ, hu⟩ := h.exists_searchDone hd
  obtain ⟨-, -, -, hfdz⟩ := s.searched_record
  by_cases hc : s.InCode (s.coef .cw)
  · exact .inl ⟨hc, State.decodePhase_of_inCode hc⟩
  · by_cases hl : s.searched.Located
    · exact .inr (.inl ⟨hc, hl, (State.decodePhase_of_not_inCode hc).trans (hu.finishDecode_of_located hl hfdz)⟩)
    · exact .inr (.inr ⟨hc, hl, (State.decodePhase_of_not_inCode hc).trans (hu.finishDecode_of_not_located hl)⟩)

theorem State.corrected_arr_omg (hmode : s.mode = .bch) : s.corrected.arr .omg = s.arr .omg := by
  rw [State.corrected, s.magnitudePhase_of_bch hmode]
  exact State.setArr_arr_other _ _ (show ArrSel.omg ≠ .cw by decide)

/-- In BCH mode the evaluator stays (44_decoder.md R231). -/
theorem State.Ready.decodePhase_arr_omg (h : s.Ready) (hd : s.DecOK) (hmode : s.mode = .bch) :
    s.decodePhase.arr .omg = s.arr .omg := by
  obtain ⟨hsynd, hsearch⟩ := s.searched_arr (sel := .omg) (.inr rfl)
  obtain ⟨-, heq⟩ | ⟨-, -, heq⟩ | ⟨-, -, heq⟩ := h.decodePhase_cases hd <;> rw [heq]
  · exact hsynd
  · exact (State.corrected_arr_omg (s.searched_keepsSetup.mode.trans hmode)).trans hsearch
  · exact hsearch

theorem State.DecOK.answered (hd : s.DecOK) (v : BitVec 16) : (s.answered v).DecOK := hd

theorem State.BitsOK.answered (hb : s.BitsOK) (v : BitVec 16) : (s.answered v).BitsOK := hb

/-- `DECODE` answers `OK` for a word of the code (R203, R231). -/
theorem State.DecOK.exec_decode_of_inCode (hd : s.DecOK) (hb : s.BitsOK) (hc : s.InCode (s.coef .cw)) :
    ∃ u, exec .decode s = .next u ∧ u.status.sz = true ∧ u.status.ok = true := by
  obtain ⟨-, v, -, -, -, hexec, -, hsz, hok, -⟩ := exec_synd_decode_of_zero_syndromes hd hb fun j hj => by
    rw [s.polyEval_received]
    exact hc j hj
  exact ⟨v, hexec, hsz, hok⟩

end Decode

/-- Settles O47: where the search succeeds every root is simple, so no denominator is 0. -/
theorem decodeHasThreeOutcomes : Obligations.DecodeHasThreeOutcomes := by
  intro s hs hd hb
  have h : s.Ready := ⟨hs, hd.fv⟩
  have hkeep := s.decodePhase_keepsSetup
  refine ⟨_, hd.exec_decode hb, ?_, fun sel hsel => ?_, h.decodePhase_arr_omg hd, hkeep.m, hkeep.prim, hkeep.n, hkeep.t,
    hkeep.mode, hkeep.exp, hkeep.log, hkeep.lasterr, hkeep.esticky, hkeep.pending⟩
  · obtain ⟨hsynd, hsearch⟩ := s.searched_arr (sel := .cw) (.inl rfl)
    simp only [State.answered_status, State.answered_ecnt, State.answered_nroots, State.answered_arr, State.answered_l]
    obtain ⟨hc, heq⟩ | ⟨hc, hl, heq⟩ | ⟨hc, hl, heq⟩ := h.decodePhase_cases hd <;> rw [heq]
    · obtain ⟨hstatus, hecnt, hnroots⟩ := s.withSyndromes_record
      refine .inl ⟨?_, hecnt, hnroots, hsynd, hc⟩
      rw [State.setStatus_status, hstatus, hd.fv, s.withSyndromes_sz_eq_true_iff.2 hc]
    · obtain ⟨K, _, ψ, hu⟩ := h.exists_searchDone hd
      obtain ⟨hstatus, hecnt, hnroots, hlen, -⟩ := hu.corrected_record hl s.searched_record.2.2.2
      obtain ⟨htmr, hrlm⟩ := hu.located_iff.1 hl
      obtain ⟨hlength, ht⟩ := hl
      rw [hstatus, hecnt, hnroots, hlen, s.searched_status, htmr, hrlm, hd.fv, State.withSyndromes_sz_of_not_inCode hc]
      have hone := hu.one_le_l (by rwa [s.searched_keepsSetup.inCode_iff, s.searched_coef_cw])
      rw [s.searched_keepsSetup.t] at ht
      exact .inr (.inl ⟨rfl, rfl, BitVec.eq_of_toNat_eq (hu.nroots.trans hlength), hone, hlength.symm.trans_le ht⟩)
    · obtain ⟨K, _, ψ, hu⟩ := h.exists_searchDone hd
      have hflag : s.searched.status.tmr = true ∨ s.searched.status.rlm = true := by
        rw [hu.located_iff, not_and_or, Bool.not_eq_false, Bool.not_eq_false] at hl
        exact hl
      obtain ⟨hsz, hecnt, hok, hfdz⟩ := s.searched_record
      exact .inr (.inr ⟨s.searched_keepsSetup.fv.trans hd.fv, hsz.trans (State.withSyndromes_sz_of_not_inCode hc), hok,
        hfdz, hflag, hecnt, hsearch⟩)
  · refine (KeepsOutsideDecode.refl s).decodePhase.arr sel ?_
    obtain rfl | rfl | rfl := hsel <;> decide

/-- Settles O51: the magnitudes leave the syndromes of the received word, and adding them twice leaves none. -/
theorem successLeavesACodeWord : Obligations.SuccessLeavesACodeWord := by
  intro s t hs hd hb hexec hok
  have h : s.Ready := ⟨hs, hd.fv⟩
  obtain rfl := Host.Outcome.next.inj (hexec.symm.trans (hd.exec_decode hb))
  have hkeep := s.decodePhase_keepsSetup
  have hsearch := s.searched_keepsSetup
  have hword : s.InCode (s.decodePhase.coef .cw) ∧ s.decodePhase.BitsOK ∧
      ((List.range s.n.toNat).filter fun i => s.decodePhase.coef .cw i != s.coef .cw i).length ≤ s.t.toNat := by
    obtain ⟨hc, heq⟩ | ⟨hc, hl, heq⟩ | ⟨hc, hl, heq⟩ := h.decodePhase_cases hd
    · have hcw : s.decodePhase.arr .cw = s.arr .cw := by rw [heq]; exact (s.searched_arr (.inl rfl)).1
      refine ⟨by rwa [State.coef_congr hcw], hb.of_keepsSetup hkeep hcw, ?_⟩
      simp [State.coef_congr hcw]
    · obtain ⟨K, _, ψ, hu⟩ := h.exists_searchDone hd
      have hb' : s.searched.BitsOK := hb.of_keepsSetup hsearch (s.searched_arr (.inl rfl)).2
      have hle := hu.length_changes_le.trans hl.2
      rw [hsearch.n, s.searched_coef_cw, hsearch.t] at hle
      rw [heq]
      exact ⟨hsearch.inCode_iff.1 (hu.corrected_inCode hl hb'), hu.corrected_bitsOK hb', hle⟩
    · rw [State.answered_status, heq, s.searched_record.2.2.1] at hok
      exact absurd hok Bool.false_ne_true
  obtain ⟨hcode, hbits, hle⟩ := hword
  exact ⟨hcode, hle, ((hd.of_keepsSetup hkeep).answered _).exec_decode_of_inCode (hbits.answered _)
    (hkeep.inCode_iff.2 hcode)⟩

end Sys2Proof.Machine

/-! ## What `DECODE` corrects (44_decoder.md R232) -/

namespace Sys2Proof.Machine

theorem KeepsSetup.isElement {s s' : State} (h : KeepsSetup s s') : s'.isElement = s.isElement := by
  funext a
  rw [State.isElement, State.isElement, h.m]

theorem State.Errors.of_keepsSetup {s s' : State} {c e : Nat → Cell} {P : Finset Nat} (he : s.Errors c e P)
    (h : KeepsSetup s s') (hcw : s'.arr .cw = s.arr .cw) : s'.Errors c e P where
  inCode := h.inCode_iff.2 he.inCode
  elem_word := by rw [h.n, h.isElement]; exact he.elem_word
  elem := by rw [h.n, h.isElement]; exact he.elem
  lt := by rw [h.n]; exact he.lt
  ne_zero := he.ne_zero
  card_le := by rw [h.t]; exact he.card_le
  cw := by rw [h.n, State.coef_congr hcw]; exact he.cw

/-- Settles O50: a shortest register for the syndromes of at most T errors is their locator polynomial. -/
theorem decodeCorrectsUpToT : Obligations.DecodeCorrectsUpToT := by
  intro s c e P hs hd hc helem hsorted hP hone hT hbits hcw
  have h : s.Ready := ⟨hs, hd.fv⟩
  have hkeep := s.searched_keepsSetup
  have hb : s.BitsOK := fun hmode i hi => by
    rw [hcw i hi]
    exact xor_toNat_le_one (hbits hmode i hi).1 (hbits hmode i hi).2
  have hcard : P.toFinset.card = P.length := List.toFinset_card_of_nodup (hsorted.imp fun hlt => hlt.ne)
  have he : s.Errors c e P.toFinset :=
    { inCode := hc
      elem_word := fun i hi => (helem i hi).1
      elem := fun i hi => (helem i hi).2
      lt := fun i hi => ((hP i).1 (List.mem_toFinset.1 hi)).1
      ne_zero := fun i hi => ((hP i).1 (List.mem_toFinset.1 hi)).2
      card_le := hcard.trans_le hT
      cw := fun i hi => by
        rw [hcw i hi]
        split
        case isTrue => rfl
        case isFalse hno => rw [not_not.1 fun hne => hno (List.mem_toFinset.2 ((hP i).2 ⟨hi, hne⟩))] }
  have hsame := (s.searched_arr (sel := .cw) (.inl rfl)).2
  have he' := he.of_keepsSetup hkeep hsame
  obtain ⟨K, _, ψ, hu⟩ := h.exists_searchDone hd
  have hl := hu.located_of_errors he'
  have hnone : ¬s.InCode (s.coef .cw) := by
    have hno := hu.not_inCode_of_errors he' (Finset.card_pos.1 (hcard ▸ hone))
    rwa [hkeep.inCode_iff, s.searched_coef_cw] at hno
  have hfdz := s.searched_record.2.2.2
  have heq := (State.decodePhase_of_not_inCode hnone).trans (hu.finishDecode_of_located hl hfdz)
  obtain ⟨hstatus, hecnt, hnroots, -, hepos⟩ := hu.corrected_record hl hfdz
  have hroots : s.searched.chienRoots = P := s.searched.chienRoots_pairwise.eq_of_mem_iff hsorted fun i => by
    rw [← List.mem_toFinset, (hu.l_eq_card_and_roots he').2, List.mem_toFinset]
  have hlength := hu.nroots
  rw [hroots] at hlength
  have hok : s.searched.corrected.status.ok = true := by rw [hstatus]
  refine ⟨_, hd.exec_decode hb, ?_⟩
  simp only [State.answered_res, State.answered_status, State.answered_ecnt, State.answered_nroots,
    State.answered_coef, heq]
  refine ⟨congrArg flagValue hok, hok, ?_, ?_, fun j _ => ?_, fun i hi => ?_⟩
  · rw [hecnt, hlength]
  · rw [hnroots, hlength]
  · rw [State.coef_congr hepos, hu.epos, hroots]
  · exact hu.corrected_coef_cw_of_errors he' (hb.of_keepsSetup hkeep hsame)
      (hi.trans_eq (by rw [hkeep.n]))

/-- Settles O49: the pattern with the one position `p`. -/
theorem decodeCorrectsOneError : Obligations.DecodeCorrectsOneError := by
  intro s c e p hs hd hc helem he hne hp hbits hcw
  have hpattern : ∀ i, s.isElement (if i = p then e else 0) := fun i => by
    split
    · exact he
    · exact s.isElement_zero
  obtain ⟨t, hexec, hres, hok, hecnt, hnroots, hepos, hword⟩ :=
    decodeCorrectsUpToT s c (fun i => if i = p then e else 0) [p] hs hd hc (fun i hi => ⟨helem i hi, hpattern i⟩)
      (List.pairwise_singleton _ _) (fun i => by
        rw [List.mem_singleton]
        constructor
        · rintro rfl
          rw [if_pos rfl]
          exact ⟨hp, hne⟩
        · rintro ⟨-, hne⟩
          by_contra hi
          exact hne (if_neg hi))
      le_rfl hd.two_t_lt.2.2 (fun hmode i hi => by
        obtain ⟨he1, hword⟩ := hbits hmode
        refine ⟨hword i hi, ?_⟩
        split
        · rw [he1]
          exact le_rfl
        · exact Nat.zero_le 1)
      (fun i hi => by
        rw [hcw i hi]
        split
        · rfl
        · exact BitVec.xor_zero.symm)
  exact ⟨t, hexec, hres, hok, BitVec.eq_of_toNat_eq hecnt, BitVec.eq_of_toNat_eq hnroots, hepos 0 Nat.one_pos, hword⟩

end Sys2Proof.Machine

/-! ## Faults and the idle core -/

namespace Sys2Proof.Machine

/-! ### The idle core and `rst` -/

theorem step_of_idle {s : State} (h : s.pending = []) : step s = .next s := by
  rw [step, h]

/-- Settles O7: with nothing offered the step is the identity, and `rst` reaches `resetCore`, whose fields but the port
streams are those of the reset state. -/
theorem idleAndResetInput : Obligations.IdleAndResetInput :=
  ⟨fun _ => step_of_idle, fun _ _ => step_of_rst⟩

/-! ### What a fault writes -/

/-- The fault's bit of `ESTICKY` is set, the others are as before (60_exceptions.md R241). -/
theorem State.getLsbD_faulted_esticky (s : State) (c : BitVec 4) (k : Nat) :
    (s.faulted c).esticky.getLsbD k = (s.esticky.getLsbD k || k == c.toNat) := by
  have hbit : ((1 <<< c.toNat : Nat) : BitVec 16) = BitVec.twoPow 16 c.toNat := by
    revert c
    decide
  rw [State.faulted_esticky, BitVec.getLsbD_or, hbit, BitVec.getLsbD_twoPow, decide_eq_true c.isLt, Bool.true_and,
    beq_eq_decide, decide_eq_decide.2 eq_comm]

/-- A fault's response is its code times 2^28 (60_exceptions.md R241). -/
theorem toNat_faultWord (c : BitVec 4) : (c.setWidth 32 <<< 28 : Word).toNat = c.toNat * 2 ^ 28 := by
  revert c
  decide

/-- A response that carries a fault code is a fault's. -/
theorem runWord_of_errField_ne_zero {w r : Word} {s t : State} (hrun : runWord w s = .next t)
    (hresp : t.responses = s.responses ++ [r]) (herr : errField r ≠ 0) :
    ∃ c : BitVec 4, t = s.faulted c ∧ r = c.setWidth 32 <<< 28 := by
  have hword : ∀ {r' : Word}, t.responses = s.responses ++ [r'] → r = r' := fun h =>
    List.singleton_injective (List.append_cancel_left (hresp.symm.trans h))
  obtain ⟨k, -, hfault⟩ | ⟨i, -, hanswer⟩ := runWord_cases w s
  · obtain rfl := Host.Outcome.next.inj (hrun.symm.trans hfault)
    exact ⟨k.code, rfl, hword rfl⟩
  · obtain rfl := Host.Outcome.next.inj (hrun.symm.trans hanswer)
    rw [State.answered_responses, commandEffect_responses] at hword
    exact absurd (by rw [hword rfl, errField_answer]) herr

/-- Settles O9: only a fault answers a code, and `State.faulted` is the two fault registers and the response. -/
theorem faultsArePrecise : Obligations.FaultsArePrecise := by
  intro w r s t hrun hresp herr
  obtain ⟨c, rfl, rfl⟩ := runWord_of_errField_ne_zero hrun hresp herr
  rw [errField_fault]
  exact ⟨rfl, s.getLsbD_faulted_esticky c, toNat_faultWord c, rfl⟩

/-! ### The kind of a fault, from the state after it -/

/-- A command that ends in a fault state has failed a check of that code. -/
theorem failing_of_exec_faulted {i : Instr} {s : State} {c : BitVec 4} (hc : c ≠ 0)
    (h : exec i s = .next (s.faulted c)) : ∃ k : FaultKind, k.code = c ∧ firstFailing (commandChecks i s) = some k := by
  obtain ⟨k, hfail, he⟩ | ⟨-, he⟩ := exec_cases h
  · exact ⟨k, (State.faulted_injective he).symm, hfail⟩
  · exact absurd he.symm (State.answered_ne_faulted s _ _ hc (commandEffect_responses i s))

/-! ### `NotReady` -/

/-- `NotReady` is listed for exactly the commands that need the field (60_exceptions.md R246, R258). -/
theorem needsField_iff_mayRaise (i : Instr) : needsField i = (mayRaise i).contains FaultKind.notReady.code := by
  cases i <;> rfl

/-- After its first check no command checks for the field. -/
theorem tail_commandChecks_ne_notReady {i : Instr} {s : State} {c : Bool × FaultKind}
    (h : c ∈ (commandChecks i s).tail) : c.2 ≠ .notReady := by
  have hall : ((commandChecks i s).tail.map Prod.snd).all (· != .notReady) = true := by
    cases i <;> rfl
  simpa using List.all_eq_true.1 hall c.2 (List.mem_map_of_mem h)

/-- Only a command that needs the field raises `NotReady`, and only without one (60_exceptions.md R246). -/
theorem notReady_of_firstFailing {i : Instr} {s : State} (h : firstFailing (commandChecks i s) = some .notReady) :
    needsField i = true ∧ s.status.fv = false := by
  have hneeds : needsField i = true :=
    (needsField_iff_mayRaise i).trans (List.contains_iff_mem.2 (failing_code_mem_mayRaise h))
  refine ⟨hneeds, Bool.eq_false_iff.2 fun hf => ?_⟩
  rw [← List.cons_head?_tail (head_commandChecks_of_needsField hneeds s), firstFailing_needField _ hf] at h
  exact tail_commandChecks_ne_notReady (firstFailing_mem h) rfl

/-- Settles O53: the field is the first check of the commands that need it, and no command checks for it later. -/
theorem notReadyCommands : Obligations.NotReadyCommands := by
  refine ⟨fun i s hi hf => exec_of_needsField hi hf, fun i s h => ?_⟩
  obtain ⟨k, hk, hfail⟩ := failing_of_exec_faulted (by decide) h
  obtain rfl : k = .notReady := FaultKind.code_injective hk
  exact notReady_of_firstFailing hfail

/-! ### The kinds a command raises (60_exceptions.md R258)

For each kind there is a state in which the commands it is listed for, with suitable operands, fail the check of that
kind first. -/

/-- GF(2^4) with R123's polynomial, built from the reset state. -/
def builtField : State := (State.reset.setField 4 0x13).buildField

theorem builtField_ready : builtField.Ready where
  inv := State.Inv.buildField (resetMeetsInvariant.setField rfl 4 0x13) rfl
    (fieldAccepted_iff.1 (fieldAccepted_defaultPolys (d := (4, 0x13)) (by decide)))
  fv := rfl

/-- BCH, `N` = 15, `T` = 1, the generator `x + 1`, and the symbol 2, which is no bit, at position 1. -/
def nonBinaryWord : State := (((builtField.setN 15).setT 1).setArr .g [1, 1]).setArr .cw [0, 2]

theorem nonBinaryWord_inv : nonBinaryWord.Inv := by
  have hconfig : ((builtField.setN 15).setT 1).Ready := (builtField_ready.setN (by decide)).setT (by decide)
  have helem : ((builtField.setN 15).setT 1).gf.Elem 2 := show 2 < 2 ^ 4 by decide
  rw [nonBinaryWord]
  generalize (builtField.setN 15).setT 1 = s at *
  have hg : s.gf.IsPoly [1, 1] := GF.isPoly_cons.2 ⟨hconfig.closed.elem_one, hconfig.closed.isPoly_one⟩
  have hcw : s.gf.IsPoly [0, 2] := GF.isPoly_cons.2 ⟨s.gf.elem_zero, GF.isPoly_cons.2 ⟨helem, s.gf.isPoly_nil⟩⟩
  exact ((hconfig.setArr .g hg).setArr .cw hcw).inv

/-- `x^4095` in `CW`. -/
def topPower : State := builtField.setArr .cw (polyShift 4095 [1])

theorem topPower_inv : topPower.Inv :=
  (builtField_ready.setArr .cw (GF.IsPoly.polyShift builtField_ready.closed.isPoly_one 4095)).inv

theorem topPower_coef_top : topPower.coef .cw 4095 = 1 := by
  rw [topPower, State.setArr_coef_same, read_polyShift]
  rfl

theorem topPower_isDegree : IsDegree (topPower.coef .cw) 4095 := by
  refine .inl ⟨by rw [topPower_coef_top]; decide, fun i hi => ?_⟩
  rw [topPower, State.setArr_coef_same, if_neg (by omega)]

/-- The square of `x^4095` does not fit an array register. -/
theorem firstFailing_pmul_topPower : firstFailing (commandChecks (.pmul .cw .cw .cw) topPower) = some .overflow := by
  have hne : topPower.coef .cw 4095 ≠ 0 := by rw [topPower_coef_top]; decide
  exact (firstFailing_needField _ rfl).trans
    (if_pos ((productOverflows_iff topPower_isDegree topPower_isDegree).2 ⟨hne, hne, by decide⟩))

/-- A command of `i`'s mnemonic faults with the kind in a state of the invariant. -/
def Raises (i : Instr) (k : FaultKind) : Prop :=
  ∃ (j : Instr) (s : State), s.Inv ∧ j.mnemonic = i.mnemonic ∧ exec j s = .next (s.faulted k.code)

section Columns

variable {i : Instr}

theorem raises_of_firstFailing {j : Instr} {s : State} {k : FaultKind} (hs : s.Inv)
    (hname : j.mnemonic = i.mnemonic) (hfail : firstFailing (commandChecks j s) = some k) : Raises i k :=
  ⟨j, s, hs, hname, exec_of_fail hfail⟩

theorem raises_of_builtField (j : Instr) {k : FaultKind} (hname : j.mnemonic = i.mnemonic)
    (hfail : firstFailing (commandChecks j builtField) = some k) : Raises i k :=
  raises_of_firstFailing builtField_ready.inv hname hfail

/-- Column L: with a field, whatever the operands. -/
theorem raises_locked (h : FaultKind.locked.code ∈ mayRaise i) : Raises i .locked := by
  cases i with
  | fsetm | fsetp | finit => exact raises_of_builtField _ rfl rfl
  | _ => simp [mayRaise, FaultKind.code] at h

/-- Column N: in the reset state, whatever the operands. -/
theorem raises_notReady (h : FaultKind.notReady.code ∈ mayRaise i) : Raises i .notReady :=
  ⟨i, .reset, resetMeetsInvariant, rfl,
    exec_of_needsField ((needsField_iff_mayRaise i).trans (List.contains_iff_mem.2 h)) rfl⟩

/-- Column P: an extension, a length, a capacity or a degree of 0, or no code parameters set. -/
theorem raises_invalidParameters (h : FaultKind.invalidParameters.code ∈ mayRaise i) :
    Raises i .invalidParameters := by
  cases i with
  | fsetm => exact raises_of_firstFailing (j := .fsetm 0) resetMeetsInvariant rfl rfl
  | finit => exact raises_of_firstFailing resetMeetsInvariant rfl rfl
  | csetn => exact raises_of_builtField (.csetn 0) rfl rfl
  | csett => exact raises_of_builtField (.csett 0) rfl rfl
  | geng => exact raises_of_builtField (.geng 0) rfl rfl
  | genb => exact raises_of_builtField (.genb 0) rfl rfl
  | enc | synd | bma | chien | omega | forney | correct | decode => exact raises_of_builtField _ rfl rfl
  | _ => simp [mayRaise, FaultKind.code] at h

/-- Column R: an operand that is no element, or a symbol that is no bit. -/
theorem raises_operandRange (h : FaultKind.operandRange.code ∈ mayRaise i) : Raises i .operandRange := by
  cases i with
  | fadd => exact raises_of_builtField (.fadd 16 0) rfl rfl
  | fmul => exact raises_of_builtField (.fmul 16 0) rfl rfl
  | fdiv => exact raises_of_builtField (.fdiv 16 0) rfl rfl
  | finv => exact raises_of_builtField (.finv 16) rfl rfl
  | fpow => exact raises_of_builtField (.fpow 16 0) rfl rfl
  | fisprim => exact raises_of_builtField (.fisprim 16) rfl rfl
  | flog => exact raises_of_builtField (.flog 16) rfl rfl
  | pwr => exact raises_of_builtField (.pwr .cw 0 16) rfl rfl
  | peval => exact raises_of_builtField (.peval .cw 16) rfl rfl
  | enc | synd | decode => exact raises_of_firstFailing nonBinaryWord_inv rfl rfl
  | _ => simp [mayRaise, FaultKind.code] at h

/-- Column Z: a divisor of 0; the zero polynomial stands in `CW`. -/
theorem raises_divideByZero (h : FaultKind.divideByZero.code ∈ mayRaise i) : Raises i .divideByZero := by
  cases i with
  | fdiv => exact raises_of_builtField (.fdiv 1 0) rfl rfl
  | finv => exact raises_of_builtField (.finv 0) rfl rfl
  | pdivmod => exact raises_of_builtField (.pdivmod .cw .cw) rfl rfl
  | _ => simp [mayRaise, FaultKind.code] at h

/-- Column G: the logarithm of 0. -/
theorem raises_logOfZero (h : FaultKind.logOfZero.code ∈ mayRaise i) : Raises i .logOfZero := by
  cases i with
  | flog => exact raises_of_builtField (.flog 0) rfl rfl
  | _ => simp [mayRaise, FaultKind.code] at h

/-- Column V: the square of `x^4095`. -/
theorem raises_overflow (h : FaultKind.overflow.code ∈ mayRaise i) : Raises i .overflow := by
  cases i with
  | pmul => exact raises_of_firstFailing (j := .pmul .cw .cw .cw) topPower_inv rfl firstFailing_pmul_topPower
  | _ => simp [mayRaise, FaultKind.code] at h

/-- R258 has no other column. -/
theorem mem_columns_of_mem_mayRaise {c : BitVec 4} (h : c ∈ mayRaise i) : c ∈ [9, 5, 1, 6, 2, 8, 7] := by
  have hall : (mayRaise i).all [9, 5, 1, 6, 2, 8, 7].contains = true := by
    cases i <;> rfl
  exact List.contains_iff_mem.1 (List.all_eq_true.1 hall c h)

/-- Every kind listed for a command is raised by one of its mnemonic. -/
theorem exists_raises_of_mem_mayRaise {c : BitVec 4} (h : c ∈ mayRaise i) :
    ∃ k : FaultKind, k.code = c ∧ Raises i k := by
  have hcolumn := mem_columns_of_mem_mayRaise h
  simp only [List.mem_cons, List.not_mem_nil, or_false] at hcolumn
  obtain rfl | rfl | rfl | rfl | rfl | rfl | rfl := hcolumn
  · exact ⟨.locked, rfl, raises_locked h⟩
  · exact ⟨.notReady, rfl, raises_notReady h⟩
  · exact ⟨.invalidParameters, rfl, raises_invalidParameters h⟩
  · exact ⟨.operandRange, rfl, raises_operandRange h⟩
  · exact ⟨.divideByZero, rfl, raises_divideByZero h⟩
  · exact ⟨.logOfZero, rfl, raises_logOfZero h⟩
  · exact ⟨.overflow, rfl, raises_overflow h⟩

end Columns

/-- Settles O57: a fault is that of a failing check, whose kind is listed, and each column of R258 has its state. -/
theorem kindsEachCommandRaises : Obligations.KindsEachCommandRaises := by
  refine ⟨fun i s c hc h => ?_, fun i c h => ?_⟩
  · obtain ⟨k, rfl, hfail⟩ := failing_of_exec_faulted hc h
    exact failing_code_mem_mayRaise hfail
  · obtain ⟨k, rfl, hraises⟩ := exists_raises_of_mem_mayRaise h
    exact hraises

end Sys2Proof.Machine

/-! ## The phase commands without `DECODE`'s clearing (70_reset_and_hazards.md R275)

`DECODE` is the run of the phases from the cleared state. What it clears first the phases write before they read it,
except the outcome of `FORNEY`, and that is not read where `FORNEY` did not run. -/

namespace Sys2Proof.Machine

/-- The phases after the search, in the order of R200. -/
def State.afterSearch (u : State) : State :=
  if u.mode = .rs ∧ u.status.tmr = false ∧ u.status.rlm = false then u.omegaPhase.forneyPhase.correctPhase
  else u.correctPhase

/-- The phases in the order of R200, without the answers of the commands. -/
def State.phaseRun (s : State) : State :=
  if s.syndPhase.status.sz then s.syndPhase.correctPhase else s.syndPhase.bmaPhase.chienPhase.afterSearch

theorem State.decodePhase_eq_afterSearch (s : State) : s.decodePhase =
    if s.withSyndromes.status.sz then s.withSyndromes.correctPhase else s.searched.afterSearch := s.decodePhase_eq

section Commands

variable {s t u : State}

theorem State.DecOK.agrees_after {i : Instr} (hi : i ∈ [Instr.bma, .chien, .omega, .forney, .correct])
    (hd : t.DecOK) (h : t.AgreesButAnswer u) : (commandEffect i t).AgreesButAnswer (u.after i) := by
  refine h.after (List.mem_cons_of_mem _ hi) ?_
  have hpass := t.firstFailing_decChecks.2.2 hd
  simp only [List.mem_cons, List.not_mem_nil, or_false] at hi
  obtain rfl | rfl | rfl | rfl | rfl := hi <;> exact hpass

/-- The phase commands do what the phases do. -/
theorem State.DecOK.phaseRun_agrees (hd : s.DecOK) (hb : s.BitsOK) : s.phaseRun.AgreesButAnswer s.phases := by
  have hsynd : s.syndPhase.AgreesButAnswer (s.after .synd) :=
    (State.AgreesButAnswer.refl s).after (i := .synd) (by decide) (firstFailing_wordChecks hd hb)
  have hdSynd := hd.of_keepsSetup s.syndPhase_keepsSetup
  have hdBma := hdSynd.of_keepsSetup s.syndPhase.bmaPhase_keepsSetup
  have hdSearch := hdBma.of_keepsSetup (State.chienPhase_keepsSetup _)
  have hdOmega := hdSearch.of_keepsSetup (State.omegaPhase_keepsSetup _)
  have hdForney := hdOmega.of_keepsSetup (State.forneyPhase_keepsSetup _)
  have hsearch : s.syndPhase.bmaPhase.chienPhase.AgreesButAnswer (((s.after .synd).after .bma).after .chien) :=
    hdBma.agrees_after (i := .chien) (by decide) (hdSynd.agrees_after (i := .bma) (by decide) hsynd)
  rw [State.phaseRun, State.afterSearch, State.phases]
  dsimp only
  rw [hsynd.status, hsearch.status, hsearch.mode]
  split
  · exact hdSynd.agrees_after (i := .correct) (by decide) hsynd
  · split
    · exact hdForney.agrees_after (i := .correct) (by decide) (hdOmega.agrees_after (i := .forney) (by decide)
        (hdSearch.agrees_after (i := .omega) (by decide) hsearch))
    · exact hdSearch.agrees_after (i := .correct) (by decide) hsearch

end Commands

/-! ### What the decode before can leave behind -/

/-- `u` with what `DECODE` clears first (44_decoder.md R231) taken from `r`. -/
def State.withRecordOf (u r : State) : State :=
  { u with
    nroots := r.nroots
    ecnt := r.ecnt
    arrays := { u.arrays with epos := r.arrays.epos, eval := r.arrays.eval }
    status := { r.status with fv := u.status.fv, sz := u.status.sz } }

/-- `u` with the outcome of `FORNEY` replaced (44_decoder.md R219). -/
def State.withMagnitudes (u : State) (values : Memory) (fdz : Bool) : State :=
  { u with arrays := { u.arrays with eval := values }, status := { u.status with fdz := fdz } }

/-- `u` with the outcome of `CORRECT` replaced, its word aside (44_decoder.md R223). -/
def State.withVerdict (u : State) (ecnt : BitVec 12) (ok : Bool) : State :=
  { u with ecnt := ecnt, status := { u.status with ok := ok } }

section Stale

variable (s u r : State) (values : Memory) (fdz : Bool) (ecnt : BitVec 12) (ok : Bool)

/-! `SYND` and `BMA` do not touch the record; `CHIEN` writes all of it but the outcomes of `FORNEY` and `CORRECT`. -/

theorem State.clearDecode_withRecordOf : s.clearDecode.withRecordOf s = s := by
  rw [← s.cleared_eq]
  rfl

theorem State.syndPhase_withRecordOf : (u.withRecordOf r).syndPhase = u.syndPhase.withRecordOf r := rfl

theorem State.bmaPhase_withRecordOf : (u.withRecordOf r).bmaPhase = u.bmaPhase.withRecordOf r := rfl

theorem State.chienPhase_withRecordOf : (u.withRecordOf r).chienPhase =
    (u.chienPhase.withMagnitudes r.arrays.eval r.status.fdz).withVerdict r.ecnt r.status.ok := rfl

theorem State.withRecordOf_sz : (u.withRecordOf r).status.sz = u.status.sz := rfl

theorem State.syndPhase_eq : s.syndPhase = s.withSyndromes.withRecordOf s := by
  rw [State.withSyndromes, ← State.syndPhase_withRecordOf, s.clearDecode_withRecordOf]

theorem State.search_eq : s.syndPhase.bmaPhase.chienPhase =
    (s.searched.withMagnitudes s.arrays.eval s.status.fdz).withVerdict s.ecnt s.status.ok := by
  rw [s.syndPhase_eq, State.bmaPhase_withRecordOf, State.chienPhase_withRecordOf, State.searched]

theorem State.syndPhase_sz_eq_withSyndromes : s.syndPhase.status.sz = s.withSyndromes.status.sz := by
  rw [s.syndPhase_eq, State.withRecordOf_sz]

/-! `CORRECT` writes its own outcome anew, and reads that of `FORNEY` only where the magnitudes run before it. -/

theorem State.correctPhase_of_sz (hsz : u.status.sz = true) : u.correctPhase = u.withVerdict 0 true := by
  rw [State.correctPhase, if_pos hsz]
  rfl

theorem State.correctPhase_withVerdict : (u.withVerdict ecnt ok).correctPhase = u.correctPhase := by
  rw [State.correctPhase, State.correctPhase]
  change (if u.status.sz then _ else if u.status.failed u.mode then _ else _) = _
  split
  · rfl
  · split <;> rfl

/-- In BCH mode no magnitude is read (44_decoder.md R222). -/
theorem State.applyCorrection_withMagnitudes (hmode : u.mode = .bch) :
    (u.withMagnitudes values fdz).applyCorrection = u.applyCorrection.withMagnitudes values fdz := by
  have hcell : (u.withMagnitudes values fdz).correctCell = u.correctCell := by
    funext cw j
    have hone : (u.withMagnitudes values fdz).magnitude j = u.magnitude j := by
      rw [State.magnitude_eq, State.magnitude_eq, if_pos hmode]
      exact if_pos hmode
    rw [State.correctCell, hone]
    rfl
  rw [State.applyCorrection, hcell]
  rfl

theorem State.correctPhase_withMagnitudes (h : ¬(u.mode = .rs ∧ u.status.tmr = false ∧ u.status.rlm = false)) :
    (u.withMagnitudes values fdz).correctPhase = u.correctPhase.withMagnitudes values fdz := by
  rw [State.correctPhase, State.correctPhase]
  by_cases hsz : u.status.sz = true
  · rw [if_pos hsz]
    exact if_pos hsz
  · rw [if_neg hsz]
    refine (if_neg hsz).trans ?_
    cases hmode : u.mode with
    | bch =>
      have hsame : (u.withMagnitudes values fdz).status.failed (u.withMagnitudes values fdz).mode =
          u.status.failed .bch := by
        change Status.failed _ u.mode = _
        rw [hmode]
        rfl
      rw [hsame, u.applyCorrection_withMagnitudes values fdz hmode]
      split <;> rfl
    | rs =>
      have hsearch : (u.status.tmr || u.status.rlm) = true := by
        by_contra hclean
        exact h ⟨hmode, Bool.or_eq_false_iff.1 (Bool.eq_false_of_not_eq_true hclean)⟩
      have hfailed (flag : Bool) (mode : Mode) : ({ u.status with fdz := flag } : Status).failed mode = true := by
        rw [Status.failed, hsearch, Bool.true_or]
      rw [if_pos (hfailed u.status.fdz .rs)]
      exact if_pos (hfailed fdz _)

theorem State.forneyPhase_withMagnitudes_withVerdict :
    ((u.withMagnitudes values fdz).withVerdict ecnt ok).omegaPhase.forneyPhase =
      u.omegaPhase.forneyPhase.withVerdict ecnt ok := rfl

/-- A stale outcome of `FORNEY` is written over, or it stays and nothing else depends on it. -/
theorem State.afterSearch_of_stale : ((u.withMagnitudes values fdz).withVerdict ecnt ok).afterSearch = u.afterSearch ∨
    ¬(u.mode = .rs ∧ u.afterSearch.status.tmr = false ∧ u.afterSearch.status.rlm = false) ∧
    ((u.withMagnitudes values fdz).withVerdict ecnt ok).afterSearch = u.afterSearch.withMagnitudes values fdz := by
  rw [State.afterSearch, State.afterSearch]
  by_cases hrun : u.mode = .rs ∧ u.status.tmr = false ∧ u.status.rlm = false
  · refine .inl ((if_pos hrun).trans ?_)
    rw [if_pos hrun, State.forneyPhase_withMagnitudes_withVerdict, State.correctPhase_withVerdict]
  · obtain ⟨-, -, -, -, hstatus⟩ := u.correctPhase_registers
    rw [if_neg hrun, hstatus]
    refine .inr ⟨hrun, (if_neg hrun).trans ?_⟩
    rw [State.correctPhase_withVerdict, State.correctPhase_withMagnitudes _ _ _ hrun]

/-! ### The run against `DECODE` -/

/-- With no errors to find, the record of the search before stays. -/
theorem State.phaseRun_of_sz (hsz : s.syndPhase.status.sz = true) :
    s.phaseRun = (s.decodePhase.withRecordOf s).withVerdict 0 true := by
  have hsz' := s.syndPhase_sz_eq_withSyndromes.symm.trans hsz
  rw [State.phaseRun, if_pos hsz, State.correctPhase_of_sz _ hsz, s.decodePhase_eq_afterSearch, if_pos hsz',
    State.correctPhase_of_sz _ hsz', s.syndPhase_eq]
  rfl

/-- With errors to find, at most the outcome of the `FORNEY` before stays, and only where it did not run. -/
theorem State.phaseRun_of_not_sz (hsz : s.syndPhase.status.sz = false) : s.phaseRun = s.decodePhase ∨
    ¬(s.mode = .rs ∧ s.decodePhase.status.tmr = false ∧ s.decodePhase.status.rlm = false) ∧
    s.phaseRun = s.decodePhase.withMagnitudes s.arrays.eval s.status.fdz := by
  have hsz' := s.syndPhase_sz_eq_withSyndromes.symm.trans hsz
  rw [State.phaseRun, if_neg (ne_true_of_eq_false hsz), s.search_eq, s.decodePhase_eq_afterSearch,
    if_neg (ne_true_of_eq_false hsz'), ← s.searched_keepsSetup.mode]
  exact s.searched.afterSearch_of_stale _ _ _ _

end Stale

/-- Settles O46: the run of the phases ends where `DECODE` does, but for what the decode before left in registers that no
phase wrote. -/
theorem phaseCommandsMatchDecode : Obligations.PhaseCommandsMatchDecode := by
  intro s hd hb
  obtain ⟨res, responses, hphases⟩ := hd.phaseRun_agrees hb
  refine ⟨_, hd.exec_decode hb, ?_⟩
  rw [hphases]
  cases hsz : s.syndPhase.status.sz with
  | true =>
    obtain ⟨hdsz, hdok, -, -⟩ := State.decodePhase_of_sz hsz
    rw [s.phaseRun_of_sz hsz]
    generalize s.decodePhase = t at hdsz hdok ⊢
    exact ⟨rfl, rfl, rfl, hdok.symm, fun h => absurd hdsz (ne_true_of_eq_false h)⟩
  | false =>
    have hcases := s.phaseRun_of_not_sz hsz
    generalize s.decodePhase = t at hcases ⊢
    obtain hrun | ⟨hno, hrun⟩ := hcases
    · rw [hrun]
      exact ⟨rfl, rfl, rfl, rfl, fun _ =>
        ⟨rfl, rfl, rfl, rfl, rfl, rfl, rfl, rfl, rfl, rfl, fun _ _ _ => ⟨rfl, rfl, rfl⟩⟩⟩
    · rw [hrun]
      exact ⟨rfl, rfl, rfl, rfl, fun _ =>
        ⟨rfl, rfl, rfl, rfl, rfl, rfl, rfl, rfl, rfl, rfl, fun hmode htmr hrlm => absurd ⟨hmode, htmr, hrlm⟩ hno⟩⟩

/-! ## `CORRECT` twice (70_reset_and_hazards.md R276) -/

/-- What the listed errors add to cell `i` (44_decoder.md R222). -/
def State.correctionAt (s : State) (i : Nat) : Cell :=
  xorSum s.nroots.toNat fun j => if i < s.n.toNat ∧ (s.coef .epos j).toNat = i then s.magnitude j else 0

theorem State.applyCorrection_coef_cw_of_lt (s : State) {i : Nat} (hi : i < 4096) :
    s.applyCorrection.coef .cw i = s.coef .cw i ^^^ s.correctionAt i :=
  ((Memory.read_store _ i).trans (if_pos hi)).trans (s.read_foldl_correctCell _ hi _)

/-- A correction lists the same errors after it as before it. -/
theorem State.correctionAt_applyCorrection (s : State) (v : BitVec 16) (i : Nat) :
    (s.applyCorrection.answered v).correctionAt i = s.correctionAt i := by
  simp [State.correctionAt, State.magnitude_eq, State.coef, State.applyCorrection]

theorem State.DecOK.exec_correct {s : State} (hd : s.DecOK) (hsz : s.status.sz = false) (hfailed : ¬s.Failed) :
    exec .correct s = .next (s.applyCorrection.answered 1) := by
  have hphase : s.correctPhase = s.applyCorrection :=
    State.correctPhase_of_not_failed hsz (Bool.eq_false_of_not_eq_true (mt s.failed_eq_true_iff.1 hfailed))
  refine (hd.exec_phase (i := .correct) (by decide)).trans ?_
  rw [commandEffect, commandValue, hphase]
  rfl

/-- Settles O52: the second correction adds to each cell what the first one added. -/
theorem correctTwiceRestores : Obligations.CorrectTwiceRestores := by
  intro s hd hsz hfailed
  have hd' := (hd.of_keepsSetup s.applyCorrection_keepsSetup).answered 1
  refine ⟨_, _, hd.exec_correct hsz hfailed, hd'.exec_correct hsz hfailed, rfl, rfl, fun i hi => ?_⟩
  rw [State.answered_coef, State.applyCorrection_coef_cw_of_lt _ hi, s.correctionAt_applyCorrection, State.answered_coef,
    s.applyCorrection_coef_cw_of_lt hi, BitVec.xor_assoc, BitVec.xor_self]
  exact BitVec.xor_zero

end Sys2Proof.Machine
